-- ==== Sys2Proof/Word.lean ====
section
/-! DEFINITION. The words of the UD416: bytes, beats, addresses, identifiers (spec/00_scope.md 0.8, 0.9). -/

namespace Sys2Proof

/-- A byte. -/
abbrev Byte := BitVec 8

/-- A 40-bit byte address (0.8). -/
abbrev Addr := BitVec 40

/-- A beat of 8 bytes (0.8). Byte j of a beat, counted from its lowest address, is bits 8j+7 to 8j
(DESIGN CHOICE, safe: a numbering of the model's, log 30). -/
abbrev Beat := BitVec 64

/-- A master identifier, 0 to 63 (0.2). -/
abbrev MasterId := BitVec 6

/-- A request tag, 0 to 255 (R147). -/
abbrev Tag := BitVec 8

/-- A set of master identifiers: bit m is set when master m is in it. -/
abbrev MasterSet := BitVec 64

/-- A window number, W0 to W15. -/
abbrev WinIdx := Fin 16

/-- A generation number, 0 to 255, wrapping (0.9). -/
abbrev GenNum := BitVec 8

/-- A set of line indexes of a FLIP window: one bit per line, 4096 entries (R105). -/
abbrev LineMap := BitVec 4096

/-- The bytes of one line, from the lowest address: an entry is the byte where it holds a value and `none`
where it does not (the byte-valid mask of a slot, R19; the byte enables of a write, R24). An entry past the
end of the list is `none`. -/
abbrev LineBytes := List (Option Byte)

end Sys2Proof
end

