-- ==== Sys2Proof/Syntax.lean ====
section
/-! DEFINITION. The commands the UD416 takes: one constructor of `Instr` for each row of
spec/opcode_table.json, with the operands the rules give it. -/

namespace Sys2Proof

/-- The operation of an upstream request (R147). -/
inductive ReqOp where
  | read
  | write
deriving DecidableEq, Repr

/-- A data beat of a WRITE with its eight byte enables, bit j for byte j (R147). -/
structure WriteBeat where
  data : Beat
  enables : BitVec 8
deriving DecidableEq, Repr

/-- An upstream request record (R147). -/
structure Request where
  master : MasterId
  tag : Tag
  op : ReqOp
  addr : Addr
  /-- 1 to 8. -/
  beats : Nat
  /-- One entry a beat for a WRITE, none for a READ. -/
  data : List WriteBeat
deriving DecidableEq, Repr

/-- Memory's answer to an issued request: OKAY, with data beats for a read, or ERROR (section 10.4). -/
inductive MemAnswer where
  | okay (data : List Beat)
  | error
deriving DecidableEq, Repr

/-- The strobe lines STB0 and STB1. -/
inductive StrobeLine where
  | stb0
  | stb1
deriving DecidableEq, Repr

/-- The level of a line. -/
inductive Level where
  | low
  | high
deriving DecidableEq, Repr

/-- The commands and events the part takes, in the order of spec/opcode_table.json. An `id` operand names the
issued request that memory answers or whose deadline is reached (log 3). Window, target, level and mode
arguments of management commands are the bytes the frame carries (section 11.2). -/
inductive Instr where
  /-- REQUEST_TAKE (R42, R147): the interconnect offers a request. -/
  | requestTake (r : Request)
  /-- PASS_THROUGH_ANSWER (R43). -/
  | passThroughAnswer (id : Nat) (a : MemAnswer)
  /-- VIEW_READ_ANSWER (R53). -/
  | viewReadAnswer (id : Nat) (a : MemAnswer)
  /-- REDIRECTED_WRITE_ANSWER (R109). -/
  | redirectedWriteAnswer (id : Nat) (a : MemAnswer)
  /-- GUARD_READ_ANSWER (R79). -/
  | guardReadAnswer (id : Nat) (a : MemAnswer)
  /-- DRAIN_WRITE_ANSWER (R85). -/
  | drainWriteAnswer (id : Nat) (a : MemAnswer)
  /-- STAMP_WRITE_ANSWER (R89). -/
  | stampWriteAnswer (id : Nat) (a : MemAnswer)
  /-- CARRY_READ_ANSWER (R118). -/
  | carryReadAnswer (id : Nat) (a : MemAnswer)
  /-- CARRY_WRITE_ANSWER (R118). -/
  | carryWriteAnswer (id : Nat) (a : MemAnswer)
  /-- LATE_ANSWER (R157). -/
  | lateAnswer (id : Nat) (a : MemAnswer)
  /-- UNMATCHED_ANSWER (R156). -/
  | unmatchedAnswer (id : Nat) (a : MemAnswer)
  /-- ENTRY_EXPIRY (R157): the deadline of an outstanding entry is reached. -/
  | entryExpiry (id : Nat)
  /-- HOLD_EXPIRY (R128): the deadline of a hold entry is reached. -/
  | holdExpiry
  /-- TIMEBASE_ADVANCE (R150). -/
  | timebaseAdvance
  /-- STROBE_EDGE (R100): a sample finds the line at its active level. -/
  | strobeEdge (l : StrobeLine)
  /-- STROBE_LEVEL_CHANGE (R97): a sample finds the line at its inactive level. -/
  | strobeLevelChange (l : StrobeLine)
  /-- ENGINE_TAKE (R77). -/
  | engineTake
  /-- CARRY_BEGIN (R117). -/
  | carryBegin
  /-- DOWNSTREAM_GRANT (R155). -/
  | downstreamGrant
  /-- GET_STATUS (R161). -/
  | getStatus
  /-- READ_WINDOW(w) (R2). -/
  | readWindow (w : Byte)
  /-- WINDOW_CONFIG(w, block) (R1): the 40-byte block of Table 11.5, byte 0 first. -/
  | windowConfig (w : Byte) (block : List Byte)
  /-- WINDOW_ADJUST(w, ...) (R11, R162). -/
  | windowAdjust (w : Byte) (producers : MasterSet) (expected : Byte) (quota : BitVec 16) (policy priority target : Byte)
  /-- ENABLE(w) (R10). -/
  | enable (w : Byte)
  /-- DISABLE(w, mode) with a mode byte other than 1 (R12, R162): 0 is DRAIN, any other is answered BAD_ARG. -/
  | disableDrain (w mode : Byte)
  /-- DISABLE(w, DISCARD) (R13). -/
  | disableDiscard (w : Byte)
  /-- CLOSE(w, operand) (R72). -/
  | close (w : Byte) (operand : BitVec 32)
  /-- DROP_OPEN(w) (R35). -/
  | dropOpen (w : Byte)
  /-- CLEAR_FAULT(w) (R17). -/
  | clearFault (w : Byte)
  /-- SET_STAMP(w, value) (R6). -/
  | setStamp (w : Byte) (value : BitVec 32)
  /-- SET_FLOOR(t, v) (R140). -/
  | setFloor (t v : Byte)
  /-- TAKE_EVENT(t) (R142). -/
  | takeEvent (t : Byte)
  /-- EVENT_RECORD_SHIFTED_OUT (R143): the last byte of the returned record has left MDO. -/
  | eventRecordShiftedOut
  /-- SET_DEVICE_EVENTS(priority, target) (R137). -/
  | setDeviceEvents (priority target : Byte)
  /-- SET_STROBE(s, polarity) (R98). -/
  | setStrobe (line polarity : Byte)
  /-- SET_TIMERS(divisor, hold limit, answer limit) (R164). -/
  | setTimers (divisor : Byte) (hold answer : BitVec 16)
  /-- RESTART (R165). -/
  | restart
  /-- UNKNOWN_COMMAND (R159): a command byte that Table 11.1 does not list. -/
  | unknownCommand (code : Byte)
  /-- FRAME_ABORTED (R159): MSEL goes high before the take. -/
  | frameAborted
  /-- WARM_RESET_COMPLETION (R167). -/
  | warmResetCompletion
  /-- COLD_RESET (R169): RESETn goes low. -/
  | coldReset
  /-- FRAME_END (R159): MSEL goes high after the take. -/
  | frameEnd
  /-- RESETN_RELEASE (R169): RESETn goes high; the operands are the levels the first sample finds (R97). -/
  | resetnRelease (stb0 stb1 : Level)
deriving DecidableEq, Repr

end Sys2Proof
end

