-- ==== Sys2Proof/WellFormed.lean ====
section
/-! DEFINITION. Which terms of `Instr` stand for something the part's wires can carry. -/

namespace Sys2Proof

/-- The field ranges of R147: 1 to 8 beats, one data beat for each beat of a WRITE, none for a READ. -/
def Request.wf (r : Request) : Bool :=
  decide (1 ≤ r.beats) && decide (r.beats ≤ 8) &&
    (match r.op with
     | .read => r.data.isEmpty
     | .write => r.data.length == r.beats)

/-- The command codes of Table 11.1. -/
def commandCodes : List Byte :=
  [0x01, 0x02, 0x10, 0x11, 0x12, 0x13, 0x14, 0x15, 0x16, 0x17, 0x20, 0x21, 0x22, 0x23, 0x24, 0x3F]

/-- A command is well formed when its operands have the sizes the rules give them: a request by R147, at most
eight data beats in an answer (R147), a 40-byte block (R162), a DISABLE_DRAIN frame whose mode byte is not the
one of DISABLE_DISCARD (R162), an unknown command byte that Table 11.1 does not list (R159). -/
def Instr.wf : Instr → Bool
  | .requestTake r => r.wf
  | .passThroughAnswer _ a | .viewReadAnswer _ a | .redirectedWriteAnswer _ a | .guardReadAnswer _ a
  | .drainWriteAnswer _ a | .stampWriteAnswer _ a | .carryReadAnswer _ a | .carryWriteAnswer _ a
  | .lateAnswer _ a | .unmatchedAnswer _ a =>
    (match a with
     | .okay data => decide (data.length ≤ 8)
     | .error => true)
  | .windowConfig _ block => block.length == 40
  | .disableDrain _ mode => mode != 1#8
  | .unknownCommand code => !commandCodes.contains code
  | .entryExpiry _ | .holdExpiry | .timebaseAdvance | .strobeEdge _ | .strobeLevelChange _ | .engineTake
  | .carryBegin | .downstreamGrant | .getStatus | .readWindow _ | .windowAdjust _ _ _ _ _ _ _ | .enable _
  | .disableDiscard _ | .close _ _ | .dropOpen _ | .clearFault _ | .setStamp _ _ | .setFloor _ _
  | .takeEvent _ | .eventRecordShiftedOut | .setDeviceEvents _ _ | .setStrobe _ _ | .setTimers _ _ _
  | .restart | .frameAborted | .warmResetCompletion | .coldReset | .frameEnd | .resetnRelease _ _ => true

end Sys2Proof
end

