-- ==== Sys2Proof/Decode.lean ====
section
/-! DEFINITION. Command words. No row of spec/opcode_table.json gives its command any bits (every row's
"fields" is empty), so no word spells a command. -/

namespace Sys2Proof

/-- The command that a word of `nbits` bits spells by the table: none, for every word. -/
def decodeTableWord (_nbits _w : Nat) : Option Instr := none

end Sys2Proof
end

