-- ==== Sys2Proof/Config.lean ====
section
/-! DEFINITION. The fixed quantities of the UD416 (spec/00_scope.md 0.10). The spec leaves no result value
open, so there is no free value here (log 33). -/

namespace Sys2Proof.Config

/-- Staging slots (R19). -/
abbrev slots : Nat := 512

/-- Bytes in a line (0.8). -/
abbrev lineBytes : Nat := 64

/-- Most lines of a STAGED window (Table 1.1). -/
abbrev stagedLines : Nat := 16384

/-- Most lines of a FLIP window (Table 1.1). -/
abbrev flipLines : Nat := 4096

/-- Most slots a quota allows (Table 1.1). -/
abbrev maxQuota : Nat := 512

/-- Hold queue entries (R124). -/
abbrev holdEntries : Nat := 16

/-- Event queue entries (R138). -/
abbrev eventEntries : Nat := 32

/-- Outstanding table entries (R151). -/
abbrev tableEntries : Nat := 32

/-- Requests taken and not answered (R147). -/
abbrev openLimit : Nat := 64

/-- Outstanding requests of the PUBLISH class (R153). -/
abbrev publishLimit : Nat := 8

/-- Outstanding requests of the CARRY class, and carries in flight (R153, R116). -/
abbrev carryLimit : Nat := 4

/-- The end of the address space, 100_0000_0000H (R10). -/
abbrev addressEnd : Nat := 0x10000000000

/-- The saturation of the loss counter and of a window's reject count (R139, R6). -/
abbrev saturation : Nat := 255

/-- A bound on the takes the publish engine can make within one event (log 22). -/
abbrev engineRounds : Nat := 64

end Sys2Proof.Config
end

