-- ==== Sys2Proof/Machine/State.lean ====
section
/-! DEFINITION. The state of the UD416 as plain data, block by block as Figure 0.2 of spec/00_scope.md lists
the blocks, the state after reset, and the reasons a step can stop (none but a rejection by name, which no
command uses). -/

namespace Sys2Proof.Machine

/-! ## The window table (R1, R2) -/

/-- The kind of a window (R3). -/
inductive WinKind where
  | staged
  | flip
deriving DecidableEq, Repr

/-- What makes a CLOSED generation eligible (R76); `unlisted` is the code 3 that a block may hold (R162). -/
inductive Trigger where
  | immediate
  | strobe0
  | strobe1
  | unlisted
deriving DecidableEq, Repr

/-- The guard operation (Table 5.1); the last three are the codes 5 to 7 that a block may hold (R162). -/
inductive GuardOp where
  | none
  | eq
  | ne
  | ltu
  | gtu
  | unlisted5
  | unlisted6
  | unlisted7
deriving DecidableEq, Repr

/-- Where the guard operand comes from at close (R69). -/
inductive OperandSource where
  | commit
  | stamp
deriving DecidableEq, Repr

/-- What a rejected generation becomes (R81). -/
inductive OnReject where
  | discard
  | reopen
deriving DecidableEq, Repr

/-- What a producer write does when it finds no slot (R27, R28). -/
inductive Policy where
  | refuse
  | wait
deriving DecidableEq, Repr

/-- A notify target, and a strobe line's number where an event reports one. -/
abbrev Target := BitVec 1

/-- An event priority, 0 to 7. -/
abbrev Priority := BitVec 3

/-- The configuration part of a window record (Table 1.1). An absent address keeps the bits that the block
stored for it (DEDUCED from R162, log 17). The guard address is present exactly when the guard operation is
not NONE. -/
structure WinConfig where
  kind : WinKind
  viewBase : Addr
  /-- 1 to 16384. -/
  lines : Nat
  imageA : Addr
  imageB : Addr
  bank : Fin 4
  producers : MasterSet
  commitAddr : Addr
  commitPresent : Bool
  /-- 0 to 15; 0 fails ENABLE. -/
  expected : Nat
  trigger : Trigger
  guardOp : GuardOp
  guardAddr : Addr
  source : OperandSource
  onReject : OnReject
  stampAddr : Addr
  stampPresent : Bool
  policy : Policy
  /-- 1 to 512. -/
  quota : Nat
  priority : Priority
  target : Target
deriving DecidableEq, Repr

/-- Where a generation stands (R21). -/
inductive GenState where
  | opened
  | closed
  | checking
  | draining
  | stamping
deriving DecidableEq, Repr

/-- A held staging slot (R19). Its owning window and generation are where it stands (log 24). -/
structure Slot where
  line : Addr
  /-- The 64 data bytes and their mask in one: an entry is present where the mask is set. -/
  bytes : LineBytes
deriving DecidableEq, Repr

/-- A generation record (R21; for FLIP, R3, with an empty slot list). -/
structure Gen where
  state : GenState
  number : GenNum
  /-- In the order each line was first written. -/
  slots : List Slot
  creation : Nat
  remaining : Nat
  arrived : MasterSet
  closePending : Bool
  operand : Option (BitVec 32)
deriving DecidableEq, Repr

/-- The four window states (R8). -/
inductive WinState where
  | off
  | live
  | retiring
  | halted
deriving DecidableEq, Repr

/-- The two images of a FLIP window (R105). -/
inductive Image where
  | imageA
  | imageB
deriving DecidableEq, Repr

/-- A window record: configuration part (R1) and live part (R2), with the mark of a failed carry (R121) and
the identity the next request had at the last flip (what "taken before the flip" of R110 reads, log 3). -/
structure Window where
  cfg : WinConfig
  state : WinState
  front : Image
  openGen : Option Gen
  pubGen : Option Gen
  lastGen : GenNum
  stampCount : BitVec 32
  publishCount : BitVec 16
  /-- 0 to 255, saturating. -/
  rejectCount : Nat
  noticeArmed : Bool
  haltPending : Bool
  carryFailed : Bool
  flipMark : Nat
deriving DecidableEq, Repr

/-! ## The publish engine (R77) -/

/-- The phase of the engine's work. -/
inductive Phase where
  | checking
  | draining
  | stamping
deriving DecidableEq, Repr

/-- The work of the busy engine (R77), with the length of the drain list (R83), the first failed line (R86),
whether the check has begun (R78, R113) and the guard read it waits for. -/
structure Work where
  window : WinIdx
  gen : GenNum
  phase : Phase
  issued : Nat
  okay : Nat
  failed : Nat
  drainLength : Nat
  firstFailed : Option Addr
  begun : Bool
  guardRead : Option Nat
deriving DecidableEq, Repr

/-! ## The strobe unit (R97) -/

/-- The polarity of a strobe line. -/
inductive Polarity where
  | rising
  | falling
deriving DecidableEq, Repr

/-- The fields of one strobe line. -/
structure Strobe where
  polarity : Polarity
  last : Level
deriving DecidableEq, Repr

/-! ## Flip maps and the carry engine (R105, R116) -/

/-- A map bank (R105). -/
structure Bank where
  dirty : LineMap
  carry : LineMap
deriving DecidableEq, Repr

/-- An entry of the demand list; `seq` names the CARRY hold entry it stands for. -/
structure Demand where
  window : WinIdx
  line : Nat
  seq : Nat
deriving DecidableEq, Repr

/-- A carry in flight, with the identity of the carry read or carry write it now waits for. -/
structure Carry where
  window : WinIdx
  line : Nat
  request : Nat
deriving DecidableEq, Repr

/-- The carry engine's three lists (R116). -/
structure CarryEngine where
  order : List WinIdx
  demand : List Demand
  inFlight : List Carry
deriving DecidableEq, Repr

/-! ## The hold queue (R124) -/

/-- The reasons a request is held for. -/
inductive Reason where
  | fence
  | close
  | space
  | flipWait
  | carry
deriving DecidableEq, Repr

/-- The line a request concerns: a line index of the view range, or the commit line (R39). -/
inductive HoldLine where
  | view (l : Nat)
  | commit
deriving DecidableEq, Repr

/-- A hold entry (Table 8.1). `seq` is the place of the request in the order of takes (log 3). -/
structure HoldEntry where
  req : Request
  reason : Reason
  window : WinIdx
  line : HoldLine
  takeTime : BitVec 32
  deadline : BitVec 32
  gen : Option GenNum
  seq : Nat
deriving DecidableEq, Repr

/-! ## The notify unit (R134 to R142) -/

/-- Why a generation was rejected (R79). -/
inductive RejectReason where
  | guardFalse
  | guardError
deriving DecidableEq, Repr

/-- What became of a rejected generation (R81). -/
inductive RejectAction where
  | discarded
  | reopened
deriving DecidableEq, Repr

/-- The outcome EXHAUSTED reports (R27, R28). -/
inductive ExhaustOutcome where
  | held
  | refused
deriving DecidableEq, Repr

/-- The eleven kinds of event with their detail fields (Table 9.1). -/
inductive EventKind where
  | published (gen : GenNum) (stamp : BitVec 32) (lines : Nat)
  | rejected (gen : GenNum) (reason : RejectReason) (action : RejectAction)
  | torn (gen : GenNum) (firstFailed : Addr) (written failed abandoned : Nat) (stampFailed : Bool)
  | late (line : StrobeLine)
  | exhausted (master : MasterId) (line : Addr) (outcome : ExhaustOutcome)
  | holdExpired (master : MasterId) (reason : Reason)
  | refused (master : MasterId) (line : Addr)
  | carryFailed (line : Addr)
  | windowOff
  | memoryError (master : MasterId) (line : Addr)
  | restarted
deriving DecidableEq, Repr

/-- An event record (R134). -/
structure Event where
  kind : EventKind
  priority : Priority
  target : Target
  window : Option WinIdx
deriving DecidableEq, Repr

/-- The notify unit's state. The line levels are decided from it (`Notify.line`, R141). -/
structure Notify where
  events : List Event
  loss : Nat
  floor0 : Priority
  floor1 : Priority
  devPriority : Priority
  devTarget : Target
deriving DecidableEq, Repr

/-! ## The ports (R147 to R157) -/

/-- The error codes of R149. -/
inductive ErrorCode where
  | align
  | refused
  | commitForm
  | noSpace
  | timeout
  | halted
  | memory
deriving DecidableEq, Repr

/-- The status of a response (R149). -/
inductive RespStatus where
  | okay
  | retry
  | error (code : ErrorCode)
deriving DecidableEq, Repr

/-- A response record (R149). -/
structure Response where
  master : MasterId
  tag : Tag
  status : RespStatus
  data : List Beat
deriving DecidableEq, Repr

/-- The kinds of downstream request (Table 10.3). -/
inductive DownKind where
  | passRead
  | passWrite
  | viewRead
  | redirectedWrite
  | guardRead
  | drainWrite
  | stampWrite
  | carryRead
  | carryWrite
deriving DecidableEq, Repr

/-- The classes of downstream request (section 10.3). -/
inductive DownClass where
  | forwarded
  | publish
  | carry
deriving DecidableEq, Repr

/-- For whom a downstream request is made (R151); `reported` is the line MEMORY_ERROR names (R135). -/
inductive Origin where
  | upstream (master : MasterId) (tag : Tag) (reported : Addr)
  | part
deriving DecidableEq, Repr

/-- What a view read or merge read carries: whether it is a consumer view read, of a STAGED or a FLIP window (R50; log 43),
whether it reads an image of a FLIP window (R110), the copies of R51, and whether it still waits behind a
partial slot (R48). -/
structure ReadPart where
  consumer : Bool
  image : Bool
  openCopy : Option LineBytes
  pubCopy : Option LineBytes
  waits : Bool
deriving DecidableEq, Repr

/-- A downstream request. `line` is the memory line it reaches, `first` its first beat in the line, `bytes` the
enabled bytes of a write. `carryLine` is the view line of a carry. `flipMark` is the flip mark of the window
when a redirected write or carry write was placed (R110 order 2). -/
structure DownReq where
  id : Nat
  kind : DownKind
  line : Addr
  first : Nat
  beats : Nat
  bytes : LineBytes
  origin : Origin
  window : Option WinIdx
  gen : Option GenNum
  carryLine : Option Nat
  read : ReadPart
  flipMark : Nat
deriving DecidableEq, Repr

/-- An entry of the outstanding table (R151). -/
structure Entry where
  req : DownReq
  deadline : BitVec 32
  expired : Bool
deriving DecidableEq, Repr

/-- The downstream port: three waiting lists, the outstanding table, the last granted class. -/
structure Down where
  forwarded : List DownReq
  publish : List DownReq
  carry : List DownReq
  table : List Entry
  last : DownClass
deriving DecidableEq, Repr

/-- The timebase and its settings (R150). `activeDivisor` is the divisor in use since the last advance. -/
structure Timers where
  count : BitVec 32
  divisor : Byte
  activeDivisor : Byte
  holdLimit : BitVec 16
  answerLimit : BitVec 16
deriving DecidableEq, Repr

/-! ## The management link (R159, R160) -/

/-- The status codes of Table 11.2. -/
inductive Status where
  | ok
  | accepted
  | badCode
  | badArg
  | badState
  | busy
deriving DecidableEq, Repr

/-- The frame whose command has been taken and which has not ended: command byte, status, result bytes, and the
place in the event queue of the record a TAKE_EVENT chose (R142). -/
structure Frame where
  code : Byte
  status : Status
  results : List Byte
  chosen : Option Nat
  /-- The bits of the status byte and the result bytes that MDO has been given, the one it shows among them; one more
  once MDO is low behind them (R160). -/
  shifted : Nat
deriving DecidableEq, Repr

/-- What the pin MDO shows (R160, R169). -/
inductive Mdo where
  | highImpedance
  | low
  | high
deriving DecidableEq, Repr

/-- The device state (R161). -/
inductive DeviceState where
  | running
  | restarting
deriving DecidableEq, Repr

/-- The pin MSEL, active low, with the frame that its fall began (R159). MSEL may be low with no frame open: a cold reset
ended the frame, or MSEL fell while RESETn was low (R169). A new frame then needs MSEL to go high and low again. -/
inductive Select where
  | high
  | lowInFrame
  | lowNoFrame
deriving DecidableEq, Repr

/-! ## The part -/

/-- Everything the spec gives the UD416 (INVENTORY.md lists the fields with their rules). -/
structure Part where
  resetn : Level
  device : DeviceState
  windows : Vector Window 16
  freeSlots : Nat
  /-- An offer pass is owed at the end of the present event (R32); false between events (log 21). -/
  offerDue : Bool
  queue : List WinIdx
  /-- `none` is idle. -/
  engine : Option Work
  stb0 : Strobe
  stb1 : Strobe
  banks : Vector Bank 4
  carry : CarryEngine
  hold : List HoldEntry
  notify : Notify
  openCount : Nat
  down : Down
  timers : Timers
  /-- MSEL: whether it is low, and whether a frame is open (R159). -/
  msel : Select
  /-- The answer of the frame's command, once it is taken (R160). -/
  link : Option Frame
  /-- The bits collected from MDI of the frame whose command has not been taken yet, first received first (R159). -/
  incoming : List Bool
  /-- The responses returned so far, oldest first (log 9). -/
  responses : List Response
  /-- The place the next taken request has in the order of takes (log 3). -/
  nextSeq : Nat
  /-- The identity the next downstream request is given (log 3). -/
  nextId : Nat
deriving DecidableEq, Repr

/-- The state: the part, and the commands waiting to be taken, first in, first out. -/
structure State where
  pending : List Instr
  part : Part
deriving DecidableEq, Repr

/-- No condition of the spec stops the part: its errors are answers, statuses, events and window states, all of
them next states. So no command raises a fault. -/
inductive Fault where
deriving DecidableEq, Repr

/-- The reasons a command is turned away by the model. -/
inductive Refusal where
  /-- Raised by no command of this model (every row has its meaning); it would be safe: the model would stop
  where the part goes on. -/
  | notModelled (mnemonic : String)
deriving DecidableEq, Repr

/-! ## Reset -/

/-- The configuration part after a cold reset (Table 1.1, last column). -/
def WinConfig.reset : WinConfig where
  kind := .staged
  viewBase := 0
  lines := 1
  imageA := 0
  imageB := 0
  bank := 0
  producers := 0
  commitAddr := 0
  commitPresent := false
  expected := 1
  trigger := .immediate
  guardOp := .none
  guardAddr := 0
  source := .commit
  onReject := .discard
  stampAddr := 0
  stampPresent := false
  policy := .refuse
  quota := 64
  priority := 0
  target := 0

/-- A window record after a cold reset (Tables 1.1 and 1.2, last columns). -/
def Window.reset : Window where
  cfg := WinConfig.reset
  state := .off
  front := .imageA
  openGen := none
  pubGen := none
  lastGen := 0
  stampCount := 0
  publishCount := 0
  rejectCount := 0
  noticeArmed := true
  haltPending := false
  carryFailed := false
  flipMark := 0

/-- A strobe line after a cold reset: polarity RISING (R97). The last level is taken from the first sample after
the release; low stands here for it (DESIGN CHOICE, unsafe, log 7). -/
def Strobe.reset : Strobe where
  polarity := .rising
  last := .low

/-- A free, clear map bank (R105). -/
def Bank.clear : Bank where
  dirty := 0
  carry := 0

/-- The carry engine after a cold reset (R116). -/
def CarryEngine.reset : CarryEngine where
  order := []
  demand := []
  inFlight := []

/-- The notify unit after a cold reset (R145). -/
def Notify.reset : Notify where
  events := []
  loss := 0
  floor0 := 0
  floor1 := 0
  devPriority := 7
  devTarget := 0

/-- The downstream port after a cold reset (R158). -/
def Down.reset : Down where
  forwarded := []
  publish := []
  carry := []
  table := []
  last := .carry

/-- The timebase after a cold reset (R150). -/
def Timers.reset : Timers where
  count := 0
  divisor := 100
  activeDivisor := 100
  holdLimit := 1000
  answerLimit := 250

/-- The part after a cold reset, with RESETn released (R169). No frame is open; that MSEL is high is the model's choice
(DESIGN CHOICE, unsafe: no rule gives the pin's level, log 42). -/
def Part.reset : Part where
  resetn := .high
  device := .running
  windows := Vector.replicate 16 Window.reset
  freeSlots := Config.slots
  offerDue := false
  queue := []
  engine := none
  stb0 := Strobe.reset
  stb1 := Strobe.reset
  banks := Vector.replicate 4 Bank.clear
  carry := CarryEngine.reset
  hold := []
  notify := Notify.reset
  openCount := 0
  down := Down.reset
  timers := Timers.reset
  msel := .high
  link := none
  incoming := []
  responses := []
  nextSeq := 0
  nextId := 0

/-- The machine right after reset: the part at its cold reset values, and no command waiting. -/
def State.reset : State where
  pending := []
  part := Part.reset

end Sys2Proof.Machine
end

