-- ==== Sys2Proof/Machine/Operands.lean ====
section
/-! DEFINITION. Operand forms: line and beat arithmetic, the bytes a request carries, sets of masters and of
lines, the claimed ranges of a window and the classification of a request, and the window configuration block
(Table 11.5). -/

namespace Sys2Proof.Machine

/-! ## Lines, beats and bytes (0.8) -/

/-- The line address of a byte. -/
def lineOf (a : Addr) : Addr := (a >>> 6) <<< 6

/-- The beat number, 0 to 7, of an address within its line. -/
def beatOf (a : Addr) : Nat := a.toNat / 8 % 8

/-- The address of line `l` of a range that begins at `base` (R105). -/
def lineAt (base : Addr) (l : Nat) : Addr := base + BitVec.ofNat 40 (64 * l)

/-- Byte `j` of a beat, counted from its lowest address. -/
def beatByte (b : Beat) (j : Nat) : Byte := (b >>> (8 * j)).setWidth 8

/-- The beat whose byte `j`, counted from its lowest address, is `f j`. -/
def beatOfBytes (f : Nat → Byte) : Beat :=
  (List.range 8).foldl (fun acc j => acc ||| ((f j).setWidth 64 <<< (8 * j))) 0#64

/-- The 32-bit word of a beat that begins at byte `j`, that byte least significant (R78). -/
def beatWord (b : Beat) (j : Nat) : BitVec 32 := (b >>> (8 * j)).setWidth 32

/-- The value at byte `i` of a line, where there is one. -/
def byteAt (l : LineBytes) (i : Nat) : Option Byte := (l[i]?).getD none

/-- The line whose byte `i` is `f i`. -/
def lineBytesOf (f : Nat → Option Byte) : LineBytes := (List.range Config.lineBytes).map f

/-- `newer` laid over `older`: each byte is the newer one where it holds a value (R25, R36, R51). -/
def overlay (newer older : LineBytes) : LineBytes :=
  lineBytesOf fun i => (byteAt newer i).or (byteAt older i)

/-- All 64 mask entries are set (R19). -/
def fullLine (l : LineBytes) : Bool := (List.range Config.lineBytes).all fun i => (byteAt l i).isSome

/-- No byte holds a value. -/
def noBytes (l : LineBytes) : Bool := (List.range Config.lineBytes).all fun i => (byteAt l i).isNone

/-- The line bytes a WRITE carries: the union of its enabled bytes over its beats, beat k of the request being
beat `beatOf addr + k` of the line (R24). A READ carries none. -/
def carriedBytes (r : Request) : LineBytes :=
  lineBytesOf fun i =>
    if i / 8 < beatOf r.addr then none
    else
      match (r.data.take r.beats)[i / 8 - beatOf r.addr]? with
      | some wb => if wb.enables.getLsbD (i % 8) then some (beatByte wb.data (i % 8)) else none
      | none => none

/-- The beats `first` to `first + n - 1` of a line, where `value i` is line byte `i`. -/
def beatsOf (value : Nat → Byte) (first n : Nat) : List Beat :=
  (List.range n).map fun k => beatOfBytes fun j => value (8 * (first + k) + j)

/-- The data of a read answered from slot bytes alone (R47, R52). -/
def readFrom (l : LineBytes) (r : Request) : List Beat :=
  beatsOf (fun i => (byteAt l i).getD 0) (beatOf r.addr) r.beats

/-- The value of line byte `i` in an answer whose first beat is beat `first` of the line. -/
def answerByte (data : List Beat) (first i : Nat) : Byte :=
  beatByte (data[i / 8 - first]?.getD 0) (i % 8)

/-- The whole-line bytes of an eight-beat read's answer (R118). -/
def lineOfAnswer (data : List Beat) : LineBytes := lineBytesOf fun i => some (answerByte data 0 i)

/-- A write of eight beats from beat 0 with every byte enabled (R119). -/
def fullLineWrite (r : Request) : Bool :=
  r.beats == 8 && beatOf r.addr == 0 && fullLine (carriedBytes r)

/-- The arrival value: bytes 0 to 3 of the data beat, byte 0 least significant, a byte whose enable is clear
contributing 0 (R61). -/
def arrivalValue (r : Request) : BitVec 32 :=
  match r.data with
  | [] => 0
  | wb :: _ =>
    (List.range 4).foldl
      (fun acc j =>
        if wb.enables.getLsbD j then acc ||| ((beatByte wb.data j).setWidth 32 <<< (8 * j)) else acc) 0#32

/-- The alignment test of R148: an 8-byte aligned address, and no beat beyond the end of the line. -/
def alignedRequest (r : Request) : Bool :=
  r.addr.toNat % 8 == 0 && decide (beatOf r.addr + r.beats ≤ 8)

/-! ## Sets of masters and of lines -/

/-- The master is in the set. -/
def MasterSet.has (s : MasterSet) (m : MasterId) : Bool := s.getLsbD m.toNat

/-- The set with the master. -/
def MasterSet.add (s : MasterSet) (m : MasterId) : MasterSet := s ||| (1#64 <<< m.toNat)

/-- The set without the master. -/
def MasterSet.remove (s : MasterSet) (m : MasterId) : MasterSet := s &&& ~~~(1#64 <<< m.toNat)

/-- The number of masters in the set. -/
def MasterSet.size (s : MasterSet) : Nat := (List.range 64).countP fun i => s.getLsbD i

/-- Line `l` is in the map. -/
def LineMap.has (m : LineMap) (l : Nat) : Bool := m.getLsbD l

/-- The map with line `l`. -/
def LineMap.add (m : LineMap) (l : Nat) : LineMap := m ||| (1#4096 <<< l)

/-- The map without line `l`. -/
def LineMap.remove (m : LineMap) (l : Nat) : LineMap := m &&& ~~~(1#4096 <<< l)

/-- The map of the lines 0 to `n - 1`. -/
def LineMap.firstLines (n : Nat) : LineMap := BitVec.ofNat 4096 (2 ^ n - 1)

/-- The number of set entries among the first `n`. -/
def LineMap.size (m : LineMap) (n : Nat) : Nat := (List.range n).countP fun i => m.getLsbD i

/-- The lowest index from `i` on, within `fuel` indexes, for which `p` holds. -/
def firstIndex (p : Nat → Bool) : Nat → Nat → Option Nat
  | 0, _ => none
  | fuel + 1, i => if p i then some i else firstIndex p fuel (i + 1)

/-! ## Claimed ranges and classification (R4, R39 to R41) -/

/-- The windows in ascending number. -/
def allWindows : List WinIdx := [0, 1, 2, 3, 4, 5, 6, 7, 8, 9, 10, 11, 12, 13, 14, 15]

/-- The line index of a line address in a range of `n` lines from `base`, when it lies there. -/
def indexIn (base : Addr) (n : Nat) (line : Addr) : Option Nat :=
  if base.toNat ≤ line.toNat ∧ line.toNat < base.toNat + 64 * n then some ((line.toNat - base.toNat) / 64)
  else none

/-- The line of window `w` that a line address falls on while the window is not OFF (R4): the commit line, or
the line index within the view range or within either image of a FLIP window. -/
def Window.lineAtAddr (win : Window) (line : Addr) : Option HoldLine :=
  if win.state = .off then none
  else if win.cfg.commitPresent ∧ win.cfg.commitAddr = line then some .commit
  else
    match indexIn win.cfg.viewBase win.cfg.lines line with
    | some l => some (.view l)
    | none =>
      match win.cfg.kind with
      | .staged => none
      | .flip =>
        match indexIn win.cfg.imageA win.cfg.lines line with
        | some l => some (.view l)
        | none => (indexIn win.cfg.imageB win.cfg.lines line).map .view

/-- The classes of a taken request (R39, Table 3.1, R41). -/
inductive RequestClass where
  | passThrough
  | stagedProducerWrite (w : WinIdx) (l : Nat)
  | stagedProducerRead (w : WinIdx) (l : Nat)
  | stagedConsumerRead (w : WinIdx) (l : Nat)
  | stagedConsumerWrite (w : WinIdx) (l : Nat)
  | flipProducerWrite (w : WinIdx) (l : Nat)
  | flipProducerRead (w : WinIdx) (l : Nat)
  | flipConsumerRead (w : WinIdx) (l : Nat)
  | flipConsumerWrite (w : WinIdx) (l : Nat)
  | commitArrival (w : WinIdx)
  | commitStatusRead (w : WinIdx)
  | commitMalformed (w : WinIdx)
deriving DecidableEq, Repr

/-- The class of a request that falls on a line of window `w` (R40, R41). -/
def classIn (win : Window) (w : WinIdx) (line : HoldLine) (r : Request) : RequestClass :=
  match line with
  | .commit =>
    if r.beats = 1 ∧ beatOf r.addr = 0 then
      match r.op with
      | .write => .commitArrival w
      | .read => .commitStatusRead w
    else .commitMalformed w
  | .view l =>
    match win.cfg.kind, MasterSet.has win.cfg.producers r.master, r.op with
    | .staged, true, .write => .stagedProducerWrite w l
    | .staged, true, .read => .stagedProducerRead w l
    | .staged, false, .read => .stagedConsumerRead w l
    | .staged, false, .write => .stagedConsumerWrite w l
    | .flip, true, .write => .flipProducerWrite w l
    | .flip, true, .read => .flipProducerRead w l
    | .flip, false, .read => .flipConsumerRead w l
    | .flip, false, .write => .flipConsumerWrite w l

/-- The window and line whose claimed ranges hold a line address, among the windows listed (R39). -/
def claimant (windows : Vector Window 16) (line : Addr) : List WinIdx → Option (WinIdx × HoldLine)
  | [] => none
  | w :: ws =>
    match windows[w].lineAtAddr line with
    | some l => some (w, l)
    | none => claimant windows line ws

/-- The class of a request against the window table as it stands (R39). -/
def classify (windows : Vector Window 16) (r : Request) : RequestClass :=
  match claimant windows (lineOf r.addr) allWindows with
  | none => .passThrough
  | some (w, l) => classIn windows[w] w l r

/-- A range of bytes: the first byte and one past the last, as numbers. -/
abbrev ByteRange := Nat × Nat

/-- `n` lines from `base`. -/
def linesRange (base : Addr) (n : Nat) : ByteRange := (base.toNat, base.toNat + 64 * n)

/-- Two ranges share a byte. -/
def ByteRange.overlaps (a b : ByteRange) : Bool := decide (a.1 < b.2) && decide (b.1 < a.2)

/-- The range holds the byte. -/
def ByteRange.holds (a : ByteRange) (x : Addr) : Bool := decide (a.1 ≤ x.toNat) && decide (x.toNat < a.2)

/-- The view range (R4). -/
def WinConfig.viewRange (c : WinConfig) : ByteRange := linesRange c.viewBase c.lines

/-- The range of image A (R4). -/
def WinConfig.rangeA (c : WinConfig) : ByteRange := linesRange c.imageA c.lines

/-- The range of image B (R4). -/
def WinConfig.rangeB (c : WinConfig) : ByteRange := linesRange c.imageB c.lines

/-- The images' ranges, of a FLIP window (R4). -/
def WinConfig.imageRanges (c : WinConfig) : List ByteRange :=
  match c.kind with
  | .staged => []
  | .flip => [c.rangeA, c.rangeB]

/-- The commit line, where a commit address is configured (R4). -/
def WinConfig.commitRange (c : WinConfig) : List ByteRange :=
  if c.commitPresent then [linesRange c.commitAddr 1] else []

/-- Every range the window claims while it is not OFF (R4). -/
def WinConfig.claims (c : WinConfig) : List ByteRange := c.viewRange :: (c.imageRanges ++ c.commitRange)

/-- The guard word and the stamp word, where present (R10 check 5). -/
def WinConfig.words (c : WinConfig) : List Addr :=
  (if c.guardOp = .none then [] else [c.guardAddr]) ++ (if c.stampPresent then [c.stampAddr] else [])

/-! ## The window configuration block (Table 11.5) -/

/-- Byte `i` of a block. -/
def blockByte (block : List Byte) (i : Nat) : Byte := block[i]?.getD 0

/-- The number sent most significant byte first in the `n` bytes from byte `i`. -/
def blockNumber (block : List Byte) (i n : Nat) : Nat :=
  (List.range n).foldl (fun acc k => acc * 256 + (blockByte block (i + k)).toNat) 0

/-- The address of five bytes from byte `i`, its low `unused` bits counted as zero. -/
def blockAddr (block : List Byte) (i unused : Nat) : Addr :=
  BitVec.ofNat 40 (blockNumber block i 5 / 2 ^ unused * 2 ^ unused)

/-- Bits `hi` to `lo` of byte `i`, as a number. -/
def blockBits (block : List Byte) (i hi lo : Nat) : Nat :=
  (blockByte block i).toNat / 2 ^ lo % 2 ^ (hi - lo + 1)

/-- The producer set of bytes 0 to 7: bit j of byte k is master 8k + j. -/
def blockProducers (block : List Byte) : MasterSet :=
  (List.range 8).foldl (fun acc k => acc ||| ((blockByte block k).setWidth 64 <<< (8 * k))) 0#64

/-- The trigger of a two-bit code. -/
def Trigger.ofCode : Nat → Trigger
  | 0 => .immediate
  | 1 => .strobe0
  | 2 => .strobe1
  | _ => .unlisted

/-- The two-bit code of a trigger. -/
def Trigger.code : Trigger → Nat
  | .immediate => 0
  | .strobe0 => 1
  | .strobe1 => 2
  | .unlisted => 3

/-- The guard operation of a three-bit code. -/
def GuardOp.ofCode : Nat → GuardOp
  | 0 => .none
  | 1 => .eq
  | 2 => .ne
  | 3 => .ltu
  | 4 => .gtu
  | 5 => .unlisted5
  | 6 => .unlisted6
  | _ => .unlisted7

/-- The three-bit code of a guard operation. -/
def GuardOp.code : GuardOp → Nat
  | .none => 0
  | .eq => 1
  | .ne => 2
  | .ltu => 3
  | .gtu => 4
  | .unlisted5 => 5
  | .unlisted6 => 6
  | .unlisted7 => 7

/-- The configuration part that a block encodes (Table 11.5). -/
def WinConfig.ofBlock (b : List Byte) : WinConfig where
  producers := blockProducers b
  viewBase := blockAddr b 8 6
  lines := blockBits b 12 5 0 * 256 + blockBits b 17 5 0 * 4 + blockBits b 22 1 0 + 1
  imageA := blockAddr b 13 6
  imageB := blockAddr b 18 6
  guardOp := GuardOp.ofCode (blockBits b 22 5 3)
  source := if blockBits b 22 2 2 = 1 then .stamp else .commit
  commitAddr := blockAddr b 23 6
  kind := if blockBits b 27 5 5 = 1 then .flip else .staged
  bank := Fin.ofNat 4 (blockBits b 27 4 3)
  trigger := Trigger.ofCode (blockBits b 27 2 1)
  onReject := if blockBits b 27 0 0 = 1 then .reopen else .discard
  guardAddr := blockAddr b 28 2
  policy := if blockBits b 32 1 1 = 1 then .wait else .refuse
  target := BitVec.ofNat 1 (blockBits b 32 0 0)
  stampAddr := blockAddr b 33 2
  commitPresent := blockBits b 37 1 1 = 1
  stampPresent := blockBits b 37 0 0 = 1
  quota := blockNumber b 38 2 / 128 + 1
  expected := blockNumber b 38 2 / 8 % 16
  priority := BitVec.ofNat 3 (blockNumber b 38 2 % 8)

/-- A number as `n` bytes, most significant first. -/
def bytesBE (n v : Nat) : List Byte := (List.range n).map fun k => BitVec.ofNat 8 (v / 256 ^ (n - 1 - k))

/-- The number of a yes or no. -/
def bit (b : Bool) : Nat := if b then 1 else 0

/-- The block of a configuration part (Table 11.5). -/
def WinConfig.toBlock (c : WinConfig) : List Byte :=
  (List.range 8).map (fun k => (c.producers >>> (8 * k)).setWidth 8)
  ++ bytesBE 5 (c.viewBase.toNat + (c.lines - 1) / 256)
  ++ bytesBE 5 (c.imageA.toNat + (c.lines - 1) / 4 % 64)
  ++ bytesBE 5 (c.imageB.toNat + c.guardOp.code * 8 + bit (c.source = .stamp) * 4 + (c.lines - 1) % 4)
  ++ bytesBE 5 (c.commitAddr.toNat + bit (c.kind = .flip) * 32 + c.bank.val * 8 + c.trigger.code * 2
      + bit (c.onReject = .reopen))
  ++ bytesBE 5 (c.guardAddr.toNat + bit (c.policy = .wait) * 2 + c.target.toNat)
  ++ bytesBE 5 (c.stampAddr.toNat + bit c.commitPresent * 2 + bit c.stampPresent)
  ++ bytesBE 2 ((c.quota - 1) * 128 + c.expected * 8 + c.priority.toNat)

end Sys2Proof.Machine
end

