-- ==== Sys2Proof/Machine/Flags.lean ====
section
/-! DEFINITION. The flags and conditions computed from state: the level of a notify line, slots found by the tag
index, the guard comparison, generation and drain conditions, and the classes of downstream requests. -/

namespace Sys2Proof.Machine

/-! ## Notify lines (R141) -/

/-- The floor of a target (R140). -/
def Notify.floor (n : Notify) (t : Target) : Priority := if t = 0 then n.floor0 else n.floor1

/-- Notify line `t` is asserted exactly when the queue holds a record for target `t` whose priority exceeds
floor `t` (R141). -/
def Notify.line (n : Notify) (t : Target) : Bool :=
  n.events.any fun e => e.target == t && decide (n.floor t < e.priority)

/-- The place in the queue of the record TAKE_EVENT chooses for target `t`: the highest priority, and of equal
priorities the oldest (R142). `best` is the choice among the records before place `i`. -/
def chooseEvent (t : Target) : List Event → Nat → Option (Nat × Priority) → Option (Nat × Priority)
  | [], _, best => best
  | e :: es, i, best =>
    chooseEvent t es (i + 1)
      (if e.target = t then
        match best with
        | none => some (i, e.priority)
        | some (_, b) => if b < e.priority then some (i, e.priority) else best
      else best)

/-! ## Generations and slots -/

/-- The slot the generation holds for a line: the tag index's answer (R20). -/
def Gen.slotFor (g : Gen) (line : Addr) : Option Slot := g.slots.find? fun s => s.line = line

/-- The slot of an optional generation for a line. -/
def slotOf (g : Option Gen) (line : Addr) : Option Slot :=
  match g with
  | none => none
  | some g => g.slotFor line

/-- The slot list of an optional generation. -/
def slotsOf (g : Option Gen) : List Slot :=
  match g with
  | none => []
  | some g => g.slots

/-- The number of slots a generation holds. -/
def slotCount (g : Option Gen) : Nat := (slotsOf g).length

/-- The holding of a window: the slots of its OPEN and publishing generations together (R23). -/
def Window.holding (win : Window) : Nat := slotCount win.openGen + slotCount win.pubGen

/-- The publishing generation is CLOSED or CHECKING: for FLIP, the back image belongs to it (R105, R111). -/
def Window.pubUnseen (win : Window) : Bool :=
  match win.pubGen with
  | none => false
  | some g => g.state = .closed || g.state = .checking

/-- The master is in the OPEN generation's arrived set (R63, R71). -/
def Window.fenced (win : Window) (m : MasterId) : Bool :=
  match win.openGen with
  | none => false
  | some g => MasterSet.has g.arrived m

/-- The guard test (Table 5.1); an operation the block's layout does not list never runs (R162), and passes
nothing here. -/
def guardPasses (op : GuardOp) (word operand : BitVec 32) : Bool :=
  match op with
  | .none => true
  | .eq => word = operand
  | .ne => word ≠ operand
  | .ltu => word < operand
  | .gtu => operand < word
  | .unlisted5 | .unlisted6 | .unlisted7 => false

/-- The drain of window `w` is failing (R86). -/
def drainFailing (engine : Option Work) (w : WinIdx) : Bool :=
  match engine with
  | none => false
  | some k => k.window = w && k.phase = .draining && decide (0 < k.failed)

/-! ## Downstream requests (Table 10.3) -/

/-- The class of a kind. -/
def DownKind.cls : DownKind → DownClass
  | .passRead | .passWrite | .viewRead | .redirectedWrite => .forwarded
  | .guardRead | .drainWrite | .stampWrite => .publish
  | .carryRead | .carryWrite => .carry

/-- The kind is a write. -/
def DownKind.isWrite : DownKind → Bool
  | .passRead | .viewRead | .guardRead | .carryRead => false
  | .passWrite | .redirectedWrite | .drainWrite | .stampWrite | .carryWrite => true

/-- The class after another in the cyclic order FORWARDED, PUBLISH, CARRY (R155). -/
def DownClass.after : DownClass → DownClass
  | .forwarded => .publish
  | .publish => .carry
  | .carry => .forwarded

/-- The waiting list of a class. -/
def Down.waiting (d : Down) : DownClass → List DownReq
  | .forwarded => d.forwarded
  | .publish => d.publish
  | .carry => d.carry

/-- The requests outstanding of a class as its limit counts them: its entries that are not EXPIRED (R151). -/
def Down.outstanding (d : Down) (c : DownClass) : Nat :=
  d.table.countP fun e => e.req.kind.cls = c && !e.expired

/-- The entries of a class, EXPIRED or not (Table 11.3). -/
def Down.entries (d : Down) (c : DownClass) : Nat := d.table.countP fun e => e.req.kind.cls = c

/-- The class is below its limit (R153). -/
def Down.belowLimit (d : Down) : DownClass → Bool
  | .forwarded => true
  | .publish => decide (d.outstanding .publish < Config.publishLimit)
  | .carry => decide (d.outstanding .carry < Config.carryLimit)

/-- Two requests to one line of which either is a write (R154). -/
def clash (a b : DownReq) : Bool := a.line = b.line && (a.kind.isWrite || b.kind.isWrite)

/-- The line conflict check passes a request: no entry of the table clashes with it (R154). -/
def Down.conflictFree (d : Down) (r : DownReq) : Bool := d.table.all fun e => !clash e.req r

/-- The FORWARDED requests taken and not finished: those waiting, and those with an entry, EXPIRED or not (what
R50 and R110 order 2 wait for). -/
def Down.unfinished (d : Down) : List DownReq := d.forwarded ++ d.table.map Entry.req

/-- An earlier consumer view read of the drain write's memory line, taken by its window, keeps it back (R50). A read that the
window took in an earlier life counts too, also one it took as a FLIP window and that still waits or is outstanding at that
line (DESIGN CHOICE, unsafe: R50 says nothing of such a read, log 43). -/
def Down.keptByReader (d : Down) (r : DownReq) : Bool :=
  d.unfinished.any fun q =>
    q.kind = .viewRead && q.read.consumer && q.window = r.window && q.line = r.line && decide (q.id < r.id)

/-- A read of the image line, taken before the flip that made the image the back image, keeps a write to it
back (R110 order 2). Only the writing window's reads of an image count, in whichever life it took them, and not one that another
window, since OFF, left waiting or outstanding at the same memory line (DESIGN CHOICE, unsafe: the rule names no window,
log 38). -/
def Down.keptByOldReader (d : Down) (r : DownReq) : Bool :=
  d.unfinished.any fun q =>
    q.kind = .viewRead && q.read.image && q.window = r.window && q.line = r.line && decide (q.id < r.flipMark)

/-- The holds the owning chapters lay on a request are met (R152 condition 4: R48, R50, R110). The drain order of
R84 is kept by the PUBLISH list offering its head alone, and order 1 of R110 by condition 3 (see `Down.issuable`). -/
def Down.holdsMet (d : Down) (r : DownReq) : Bool :=
  !r.read.waits &&
    (match r.kind with
     | .drainWrite => !d.keptByReader r
     | .redirectedWrite | .carryWrite => !d.keptByOldReader r
     | .passRead | .passWrite | .viewRead | .guardRead | .stampWrite | .carryRead => true)

/-- The four conditions of R152 for a request behind the requests `older` of its waiting list. Order 1 of R110, a view read
behind an earlier redirected write of its line, is condition 3: the earlier of the two is the one ahead in the list. So a
write that was held, released and placed behind a waiting read taken meanwhile counts as taken at its release, and the
read is issued first (DESIGN CHOICE, unsafe: whether such a write's take is its acceptance or its release is left open,
log 41). -/
def Down.issuable (d : Down) (older : List DownReq) (r : DownReq) : Bool :=
  d.conflictFree r && d.belowLimit r.kind.cls && decide (d.table.length < Config.tableEntries)
    && older.all (fun q => !clash q r) && d.holdsMet r

/-- The oldest issuable request of a waiting list, `older` being the requests already passed over (R152). -/
def Down.oldestIssuable (d : Down) : List DownReq → List DownReq → Option DownReq
  | _, [] => none
  | older, r :: rs => if d.issuable older r then some r else d.oldestIssuable (older ++ [r]) rs

/-- The candidate a class offers the arbiter (R152): of PUBLISH the head alone, of the others the oldest issuable
request. -/
def Down.candidate (d : Down) : DownClass → Option DownReq
  | .publish =>
    match d.publish with
    | [] => none
    | r :: _ => if d.issuable [] r then some r else none
  | .forwarded => d.oldestIssuable [] d.forwarded
  | .carry => d.oldestIssuable [] d.carry

/-- The request the arbiter grants next: the first class with an issuable candidate, looked at in the cyclic order
from the class after the last granted one (R155). A class passed over is not looked at first at the next grant where the
cyclic order names another: after FORWARDED with PUBLISH passed over and CARRY granted, FORWARDED is looked at first (DESIGN
CHOICE, safe: R155's two sentences differ there, log 35). -/
def Down.grantee (d : Down) : Option DownReq :=
  ((d.candidate d.last.after).or (d.candidate d.last.after.after)).or (d.candidate d.last)

/-- No outstanding entry of origin the part is clear of the EXPIRED flag (R167). -/
def Down.partSettled (d : Down) : Bool := d.table.all fun e => e.expired || e.req.origin ≠ .part

end Sys2Proof.Machine
end

