-- ==== Sys2Proof/Machine/Ops.lean ====
section
/-! DEFINITION. The shared operations on the part: answering, posting, the hold queue, slots, generations, maps,
window transitions (OFF, HALTED), eligibility and the waiting lists. -/

namespace Sys2Proof.Machine

/-! ## Records of the window table -/

/-- The record of a window. -/
def Part.win (p : Part) (w : WinIdx) : Window := p.windows[w]

/-- The part with another record for a window. -/
def Part.setWin (p : Part) (w : WinIdx) (win : Window) : Part := { p with windows := p.windows.set w win }

/-- The part with a window's record changed. -/
def Part.updWin (p : Part) (w : WinIdx) (f : Window → Window) : Part := p.setWin w (f (p.win w))

/-! ## Answers (R149) and events (R138) -/

/-- Return the one response of a taken request: the open count falls by one (R147, R149). -/
def Part.respond (p : Part) (m : MasterId) (t : Tag) (st : RespStatus) (data : List Beat) : Part :=
  { p with responses := p.responses ++ [⟨m, t, st, data⟩], openCount := p.openCount - 1 }

/-- Answer a request without data. -/
def Part.answer (p : Part) (r : Request) (st : RespStatus) : Part := p.respond r.master r.tag st []

/-- Answer a READ OKAY with its data beats. -/
def Part.answerData (p : Part) (r : Request) (data : List Beat) : Part := p.respond r.master r.tag .okay data

/-- Post an event record: at the tail of the event queue, or dropped with the loss counter advanced when the
queue holds 32 (R138, R139). -/
def Notify.post (n : Notify) (e : Event) : Notify :=
  if n.events.length < Config.eventEntries then { n with events := n.events ++ [e] }
  else { n with loss := min Config.saturation (n.loss + 1) }

/-- Post an event record. -/
def Part.post (p : Part) (e : Event) : Part := { p with notify := p.notify.post e }

/-- Post a window event at the window's priority and target as they stand (R136). -/
def Part.postWindow (p : Part) (w : WinIdx) (k : EventKind) : Part :=
  p.post ⟨k, (p.win w).cfg.priority, (p.win w).cfg.target, some w⟩

/-- Post a device event at the device-event setting (R137). -/
def Part.postDevice (p : Part) (k : EventKind) : Part :=
  p.post ⟨k, p.notify.devPriority, p.notify.devTarget, none⟩

/-- A FORWARDED request fails: ERROR MEMORY to its master, and MEMORY_ERROR posted (R43, R53, R106, R109). -/
def Part.failForwarded (p : Part) (o : Origin) : Part :=
  match o with
  | .part => p
  | .upstream m t line => (p.respond m t (.error .memory) []).postDevice (.memoryError m line)

/-! ## The hold queue (R124 to R127) -/

/-- A taken request on its way to being served: its place in the order of takes, its take time, its deadline if it
is held, and whether it comes from the hold queue (R127). -/
structure Taken where
  req : Request
  seq : Nat
  takeTime : BitVec 32
  deadline : BitVec 32
  reheld : Bool
deriving DecidableEq, Repr

/-- The request of a hold entry released to be served again: it keeps its place, take time and deadline (R127). -/
def HoldEntry.released (e : HoldEntry) : Taken := ⟨e.req, e.seq, e.takeTime, e.deadline, true⟩

/-- Insert an entry at the place its request's take gives it (R124). -/
def insertHeld (e : HoldEntry) : List HoldEntry → List HoldEntry
  | [] => [e]
  | x :: xs => if e.seq < x.seq then e :: x :: xs else x :: insertHeld e xs

/-- The hold queue can take the request: a re-hold always has its place (R127), a request held at its take needs
fewer than 16 entries (R125). -/
def Part.canHold (p : Part) (t : Taken) : Bool := t.reheld || decide (p.hold.length < Config.holdEntries)

/-- Hold a request (Table 8.1). -/
def Part.addHeld (p : Part) (t : Taken) (why : Reason) (w : WinIdx) (line : HoldLine) (gen : Option GenNum) : Part :=
  { p with hold := insertHeld ⟨t.req, why, w, line, t.takeTime, t.deadline, gen, t.seq⟩ p.hold }

/-- Hold a request, or answer it RETRY where the queue cannot take it (R125). -/
def Part.holdOrRetry (p : Part) (t : Taken) (why : Reason) (w : WinIdx) (line : HoldLine) : Part :=
  if p.canHold t then p.addHeld t why w line none else p.answer t.req .retry

/-- Remove the entry with a place in the order of takes, and its demand entry (R116). -/
def Part.dropHeld (p : Part) (seq : Nat) : Part :=
  { p with
    hold := p.hold.filter fun e => e.seq ≠ seq
    carry := { p.carry with demand := p.carry.demand.filter fun d => d.seq ≠ seq } }

/-- Answer in place, in the order given, the entries at these places in the order of takes, each leaving the queue. -/
def answerEach (st : RespStatus) : List Nat → Part → Part
  | [], p => p
  | q :: qs, p =>
    answerEach st qs
      (match p.hold.find? (fun e => e.seq = q) with
       | none => p
       | some e => (p.dropHeld q).answer e.req st)

/-- Answer in place every entry for which `which` holds, in the order the queue keeps. -/
def Part.answerWhere (p : Part) (which : HoldEntry → Bool) (st : RespStatus) : Part :=
  answerEach st ((p.hold.filter which).map HoldEntry.seq) p

/-- Release, one at a time in the order given, the entries at these places that are still in the queue with the
reason `why`; each is served again before the next is released (R126). -/
def releaseEach (serve : Part → Taken → Part) (why : Reason) : List Nat → Part → Part
  | [], p => p
  | q :: qs, p =>
    releaseEach serve why qs
      (match p.hold.find? (fun e => e.seq = q && e.reason = why) with
       | none => p
       | some e => serve (p.dropHeld q) e.released)

/-- Release every entry of window `w` with reason `why` for which `which` holds (R126). -/
def Part.releaseHeld (p : Part) (serve : Part → Taken → Part) (w : WinIdx) (why : Reason)
    (which : HoldEntry → Bool) : Part :=
  releaseEach serve why
    ((p.hold.filter fun e => e.window = w && e.reason = why && which e).map HoldEntry.seq) p

/-! ## Slots (R32) -/

/-- `n` slots become free: the free count rises, and an offer pass is owed at the end of the event (R32). -/
def Part.freeSlotCount (p : Part) (n : Nat) : Part :=
  { p with freeSlots := p.freeSlots + n, offerDue := p.offerDue || decide (0 < n) }

/-- An offer pass is owed at the end of the event (R32, R11). -/
def Part.oweOffer (p : Part) : Part := { p with offerDue := true }

/-! ## Flip maps and images (R105) -/

/-- The window holds its map bank: it is FLIP and not OFF (R3). -/
def Window.holdsBank (win : Window) : Bool := win.cfg.kind = .flip && win.state ≠ .off

/-- The bank named in a window's configuration. -/
def Part.bank (p : Part) (w : WinIdx) : Bank := p.banks[(p.win w).cfg.bank]

/-- The part with a window's bank changed. -/
def Part.setBank (p : Part) (w : WinIdx) (b : Bank) : Part :=
  { p with banks := p.banks.set (p.win w).cfg.bank b }

/-- The window's dirty map; a window that holds no bank has none (R3, R105). -/
def Part.dirtyMap (p : Part) (w : WinIdx) : LineMap := if (p.win w).holdsBank then (p.bank w).dirty else 0

/-- The window's carry map; a window that holds no bank has none (R3, R105). -/
def Part.carryMap (p : Part) (w : WinIdx) : LineMap := if (p.win w).holdsBank then (p.bank w).carry else 0

/-- A carry of line `l` of the window is in flight (R116). -/
def Part.carrying (p : Part) (w : WinIdx) (l : Nat) : Bool :=
  p.carry.inFlight.any fun c => c.window = w && c.line = l

/-- The other image. -/
def Image.other : Image → Image
  | .imageA => .imageB
  | .imageB => .imageA

/-- The base of an image. -/
def WinConfig.imageBase (c : WinConfig) : Image → Addr
  | .imageA => c.imageA
  | .imageB => c.imageB

/-- The memory line of view line `l` in the front image. -/
def Window.frontLine (win : Window) (l : Nat) : Addr := lineAt (win.cfg.imageBase win.front) l

/-- The memory line of view line `l` in the back image. -/
def Window.backLine (win : Window) (l : Nat) : Addr := lineAt (win.cfg.imageBase win.front.other) l

/-- The address of line `l` of the view range. -/
def Window.viewLine (win : Window) (l : Nat) : Addr := lineAt win.cfg.viewBase l

/-- The window joins the tail of the carry order when it has carry work and is not there already (R116). -/
def Part.joinCarryOrder (p : Part) (w : WinIdx) : Part :=
  if p.carryMap w = 0 ∨ w ∈ p.carry.order then p
  else { p with carry := { p.carry with order := p.carry.order ++ [w] } }

/-- The window leaves the carry order. -/
def Part.leaveCarryOrder (p : Part) (w : WinIdx) : Part :=
  { p with carry := { p.carry with order := p.carry.order.filter fun x => x ≠ w } }

/-- Prime the carry map: every line of the window set, the dirty map clear, the window in the carry order
(R120). -/
def Part.prime (p : Part) (w : WinIdx) : Part :=
  match (p.win w).cfg.kind with
  | .staged => p
  | .flip => (p.setBank w ⟨0, LineMap.firstLines (p.win w).cfg.lines⟩).joinCarryOrder w

/-- Return the dirty lines of a discarded building generation to the carry map (R120). -/
def Part.returnDirty (p : Part) (w : WinIdx) : Part :=
  if (p.win w).holdsBank then
    (p.setBank w ⟨0, (p.bank w).carry ||| (p.bank w).dirty⟩).joinCarryOrder w
  else p

/-! ## Waiting lists (R152) -/

/-- What a request that is no view read carries. -/
def ReadPart.plain : ReadPart := ⟨false, false, none, none, false⟩

/-- Place a request at the tail of its class's waiting list, under the next identity (R152). -/
def Part.place (p : Part) (r : DownReq) : Part :=
  let r' := { r with id := p.nextId }
  { p with
    nextId := p.nextId + 1
    down :=
      match r.kind.cls with
      | .forwarded => { p.down with forwarded := p.down.forwarded ++ [r'] }
      | .publish => { p.down with publish := p.down.publish ++ [r'] }
      | .carry => { p.down with carry := p.down.carry ++ [r'] } }

/-- End the waits of R48 behind the window's slots of the lines for which `lines` holds. -/
def Part.endWaits (p : Part) (w : WinIdx) (lines : Addr → Bool) : Part :=
  { p with
    down :=
      { p.down with
        forwarded := p.down.forwarded.map fun r =>
          if r.read.waits && r.window = some w && lines r.line then
            { r with read := { r.read with waits := false } }
          else r } }

/-! ## Generations leaving (R13, R16, R34) -/

/-- The window leaves the publish queue (R75). -/
def Part.leaveQueue (p : Part) (w : WinIdx) : Part := { p with queue := p.queue.filter fun x => x ≠ w }

/-- The engine stops a check: it becomes idle, and a guard read not yet issued is removed (R93, R94). -/
def Part.stopCheck (p : Part) (w : WinIdx) : Part :=
  match p.engine with
  | none => p
  | some k =>
    if k.window = w ∧ k.phase = .checking then
      { p with
        engine := none
        down := { p.down with publish := p.down.publish.filter fun r => some r.id ≠ k.guardRead } }
    else p

/-- Discard the OPEN generation: its slots are freed, its record leaves (R34). -/
def Part.discardOpen (p : Part) (w : WinIdx) : Part :=
  (p.freeSlotCount (slotCount (p.win w).openGen)).updWin w fun win => { win with openGen := none }

/-- Discard a publishing generation that is CLOSED or CHECKING: its slots are freed, its record and its place in the
publish queue go, and a check of it stops (R13, R16, R93). Any other is left. -/
def Part.discardUnseen (p : Part) (w : WinIdx) : Part :=
  if (p.win w).pubUnseen then
    (((p.freeSlotCount (slotCount (p.win w).pubGen)).updWin w fun win => { win with pubGen := none }).leaveQueue w).stopCheck w
  else p

/-! ## Windows going OFF and HALTED (R15, R16) -/

/-- Drop a window's carry work: its carries in flight, demand entries, place in the carry order, and requests in the
CARRY waiting list (R16). -/
def Part.dropCarryWork (p : Part) (w : WinIdx) : Part :=
  { p with
    carry :=
      { order := p.carry.order.filter fun x => x ≠ w
        demand := p.carry.demand.filter fun d => d.window ≠ w
        inFlight := p.carry.inFlight.filter fun c => c.window ≠ w }
    down := { p.down with carry := p.down.carry.filter fun r => r.window ≠ some w } }

/-- Clear both maps of a FLIP window's bank. -/
def Part.clearMaps (p : Part) (w : WinIdx) : Part := if (p.win w).holdsBank then p.setBank w Bank.clear else p

/-- The effects of a window's going HALTED (R16, R131). -/
def Part.halt (p : Part) (w : WinIdx) : Part :=
  ((((((p.discardOpen w).discardUnseen w).clearMaps w).dropCarryWork w).updWin w fun win =>
    { win with state := .halted, haltPending := false, carryFailed := false }).answerWhere
      (fun e => e.window = w) (.error .halted))

/-- The window goes HALTED (R16); an OFF window goes to LIVE alone (Table 1.4). -/
def Part.goHalted (p : Part) (w : WinIdx) : Part := if (p.win w).state = .off then p else p.halt w

/-- A RETIRING window goes OFF (R15, R131): its entries are answered RETRY, it gives up its bank, and WINDOW_OFF is
posted. It has no publishing generation; a generation left OPEN by a RESTART goes with it (R5, R23; log 16). -/
def Part.goOff (p : Part) (w : WinIdx) : Part :=
  (((((p.discardOpen w).clearMaps w).leaveCarryOrder w).updWin w fun win =>
    { win with state := .off, carryFailed := false }).answerWhere (fun e => e.window = w) .retry).postWindow w .windowOff

/-- A RETIRING window with no publishing generation and no carry work goes OFF, or HALTED when halt pending is set
(R15). -/
def Part.retireIfDone (p : Part) (w : WinIdx) : Part :=
  if (p.win w).state = .retiring ∧ (p.win w).pubGen = none ∧ p.carryMap w = 0 then
    if (p.win w).haltPending then p.goHalted w else p.goOff w
  else p

/-- The window's publishing generation is STAMPING. -/
def Window.stamping (win : Window) : Bool :=
  match win.pubGen with
  | none => false
  | some g => g.state = .stamping

/-- A halt cause reaches a window (R16). -/
def Part.haltCause (p : Part) (w : WinIdx) : Part :=
  match (p.win w).state with
  | .off | .halted => p
  | .live | .retiring =>
    if (p.win w).haltPending then p
    else if (p.win w).stamping then p.updWin w fun win => { win with haltPending := true }
    else p.goHalted w

/-! ## Eligibility (R76, R112) -/

/-- The window has a CLOSED generation that is not in the publish queue. -/
def Part.closedWaiting (p : Part) (w : WinIdx) : Bool :=
  (match (p.win w).pubGen with
   | none => false
   | some g => g.state = .closed) && !p.queue.contains w

/-- The window's CLOSED generation joins the tail of the publish queue (R75). -/
def Part.joinQueue (p : Part) (w : WinIdx) : Part := { p with queue := p.queue ++ [w] }

/-- A CLOSED generation with trigger IMMEDIATE becomes eligible when the window's carry map is empty, the window is
LIVE or RETIRING and the device is RUNNING (R76, R112). -/
def Part.offerImmediate (p : Part) (w : WinIdx) : Part :=
  if p.device = .running ∧ ((p.win w).state = .live ∨ (p.win w).state = .retiring) ∧ (p.win w).cfg.trigger = .immediate
      ∧ p.closedWaiting w = true ∧ p.carryMap w = 0 then p.joinQueue w
  else p

/-- The effects of the carry map becoming empty: the window leaves the carry order, a CLOSED generation with trigger
IMMEDIATE becomes eligible, a RETIRING window with no publishing generation goes OFF (R118). -/
def Part.carryEmptied (p : Part) (w : WinIdx) : Part :=
  if p.carryMap w = 0 then ((p.leaveCarryOrder w).offerImmediate w).retireIfDone w else p

end Sys2Proof.Machine
end

