-- ==== Sys2Proof/Machine/Serve.lean ====
section
/-! DEFINITION. Serving a request, at its take and again at its release from the hold queue: the classes of
Table 3.2, the staging store's admission, the read views, the FLIP tests, arrivals and the close. -/

namespace Sys2Proof.Machine

/-! ## Requests handed to the downstream port -/

/-- A pass-read or pass-write covering the same address, beats and byte enables (R43). -/
def Part.placePass (p : Part) (r : Request) : Part :=
  p.place
    { id := 0
      kind := match r.op with | .read => .passRead | .write => .passWrite
      line := lineOf r.addr
      first := beatOf r.addr
      beats := r.beats
      bytes := match r.op with | .read => [] | .write => carriedBytes r
      origin := .upstream r.master r.tag (lineOf r.addr)
      window := none, gen := none, carryLine := none, read := ReadPart.plain, flipMark := 0 }

/-- A view read of a memory line, with what it carries (R47, R52, R106). `reported` is the line MEMORY_ERROR would
name. -/
def Part.placeView (p : Part) (r : Request) (w : WinIdx) (line reported : Addr) (read : ReadPart) : Part :=
  p.place
    { id := 0, kind := .viewRead, line := line, first := beatOf r.addr, beats := r.beats, bytes := []
      origin := .upstream r.master r.tag reported
      window := some w, gen := none, carryLine := none, read := read, flipMark := 0 }

/-- A redirected write of view line `l`: the dirty bit is set, and the write is placed for the back image's line
(R109). -/
def Part.redirect (p : Part) (r : Request) (w : WinIdx) (l : Nat) : Part :=
  (p.setBank w { p.bank w with dirty := LineMap.add (p.bank w).dirty l }).place
    { id := 0, kind := .redirectedWrite, line := (p.win w).backLine l, first := beatOf r.addr, beats := r.beats
      bytes := carriedBytes r
      origin := .upstream r.master r.tag ((p.win w).viewLine l)
      window := some w, gen := none, carryLine := none, read := ReadPart.plain, flipMark := (p.win w).flipMark }

/-! ## Writes to a STAGED window (R24 to R29, R44, R45) -/

/-- Post EXHAUSTED when the window's notice is armed, and disarm it (R29). -/
def Part.noteExhausted (p : Part) (w : WinIdx) (r : Request) (o : ExhaustOutcome) : Part :=
  if (p.win w).noticeArmed then
    (p.postWindow w (.exhausted r.master (lineOf r.addr) o)).updWin w fun win => { win with noticeArmed := false }
  else p

/-- The generation with a write merged into its slot for the line (R25). -/
def Gen.mergeWrite (g : Gen) (line : Addr) (bytes : LineBytes) : Gen :=
  { g with slots := g.slots.map fun s => if s.line = line then { s with bytes := overlay bytes s.bytes } else s }

/-- The window has room for a slot: its holding is below its quota, and a slot is free (R26). -/
def Part.slotAvailable (p : Part) (w : WinIdx) : Bool :=
  decide ((p.win w).holding < (p.win w).cfg.quota) && decide (0 < p.freeSlots)

/-- Allocate a slot of the OPEN generation for the line (R26). -/
def Part.allocate (p : Part) (w : WinIdx) (g : Gen) (r : Request) : Part :=
  (({ p with freeSlots := p.freeSlots - 1 } : Part).updWin w fun win =>
    { win with
      openGen := some { g with slots := g.slots ++ [⟨lineOf r.addr, carriedBytes r⟩] }
      noticeArmed := true }).answer r .okay

/-- A write that needs a slot and finds none meets the window's exhaustion policy (R27, R28). -/
def Part.exhaust (p : Part) (t : Taken) (w : WinIdx) (l : Nat) : Part :=
  match (p.win w).cfg.policy with
  | .refuse => (p.noteExhausted w t.req .refused).answer t.req (.error .noSpace)
  | .wait =>
    if p.canHold t then (p.noteExhausted w t.req .held).addHeld t .space w (.view l) none
    else (p.noteExhausted w t.req .refused).answer t.req .retry

/-- Apply an admitted write to the OPEN generation (R24). A LIVE window always has one (R44); were there none, the
write would meet exhaustion. -/
def Part.admitWrite (p : Part) (t : Taken) (w : WinIdx) (l : Nat) : Part :=
  if noBytes (carriedBytes t.req) then p.answer t.req .okay
  else
    match (p.win w).openGen with
    | none => p.exhaust t w l
    | some g =>
      if (g.slotFor (lineOf t.req.addr)).isSome then
        (p.updWin w fun win =>
          { win with openGen := some (g.mergeWrite (lineOf t.req.addr) (carriedBytes t.req)) }).answer t.req .okay
      else if p.slotAvailable w then p.allocate w g t.req
      else p.exhaust t w l

/-- A STAGED producer write (R44, R63, R8). -/
def Part.stagedWrite (p : Part) (t : Taken) (w : WinIdx) (l : Nat) : Part :=
  match (p.win w).state with
  | .off => p
  | .live => if (p.win w).fenced t.req.master then p.holdOrRetry t .fence w (.view l) else p.admitWrite t w l
  | .retiring => p.answer t.req .retry
  | .halted => p.answer t.req (.error .halted)

/-- A consumer write is refused, and REFUSED posted with a line address (R45, R8). -/
def Part.refuseWrite (p : Part) (r : Request) (w : WinIdx) (line : Addr) : Part :=
  (p.answer r (.error .refused)).postWindow w (.refused r.master line)

/-! ## Reads of a STAGED window (R47 to R53) -/

/-- A view read of a STAGED window's line from memory (R47, R53). -/
def Part.stagedView (p : Part) (r : Request) (w : WinIdx) (read : ReadPart) : Part :=
  p.placeView r w (lineOf r.addr) (lineOf r.addr) read

/-- The publishing generation is in a state. -/
def Window.pubIn (win : Window) (st : GenState) : Bool :=
  match win.pubGen with
  | none => false
  | some g => g.state = st

/-- A STAGED consumer read (R47, Table 3.3; in HALTED a view read from memory, R8). -/
def Part.consumerRead (p : Part) (r : Request) (w : WinIdx) : Part :=
  let slot := slotOf (p.win w).pubGen (lineOf r.addr)
  let live := (p.win w).state ≠ .halted && (p.win w).pubIn .draining && !drainFailing p.engine w
  match live, slot with
  | true, some s =>
    if fullLine s.bytes then p.answerData r (readFrom s.bytes r)
    else p.stagedView r w ⟨true, false, none, none, true⟩
  | _, _ => p.stagedView r w ⟨true, false, none, none, false⟩

/-- The publishing slot for a line as a producer's layer: while the publishing generation is CLOSED, CHECKING, or
DRAINING with the drain not failing (R51). -/
def Part.producerLayer (p : Part) (w : WinIdx) (line : Addr) : Option Slot :=
  if (p.win w).pubUnseen || ((p.win w).pubIn .draining && !drainFailing p.engine w) then
    slotOf (p.win w).pubGen line
  else none

/-- A STAGED producer read taken in LIVE or RETIRING (R51, Table 3.4). -/
def Part.producerRead (p : Part) (r : Request) (w : WinIdx) : Part :=
  let newer := (slotOf (p.win w).openGen (lineOf r.addr)).map Slot.bytes
  let older := (p.producerLayer w (lineOf r.addr)).map Slot.bytes
  match newer, older with
  | none, none => p.stagedView r w ⟨false, false, none, none, false⟩
  | some o, none =>
    if fullLine o then p.answerData r (readFrom o r) else p.stagedView r w ⟨false, false, some o, none, false⟩
  | o, some b =>
    if fullLine (o.getD []) then p.answerData r (readFrom (o.getD []) r)
    else if fullLine b then p.answerData r (readFrom (overlay (o.getD []) b) r)
    else if (p.win w).pubUnseen then p.stagedView r w ⟨false, false, o, some b, false⟩
    else p.stagedView r w ⟨false, false, o, none, true⟩

/-- A STAGED producer read: in HALTED it is served as a consumer read (R8). -/
def Part.stagedProducerRead (p : Part) (r : Request) (w : WinIdx) : Part :=
  match (p.win w).state with
  | .off => p
  | .live | .retiring => p.producerRead r w
  | .halted => p.consumerRead r w

/-! ## FLIP windows (R106 to R111, R119) -/

/-- A FLIP read of view line `l`, from the image line given (R106, R107). -/
def Part.flipView (p : Part) (r : Request) (w : WinIdx) (l : Nat) (line : Addr) (consumer : Bool) : Part :=
  p.placeView r w line ((p.win w).viewLine l) ⟨consumer, true, none, none, false⟩

/-- A FLIP consumer read goes to the front image (R106). Like a STAGED one it is marked as a consumer view read, which R50
asks about should the window be STAGED later (log 43). -/
def Part.flipConsumerRead (p : Part) (r : Request) (w : WinIdx) (l : Nat) : Part :=
  p.flipView r w l ((p.win w).frontLine l) true

/-- A FLIP producer read goes to the front image when its line has its carry bit set or a carry in flight, and to
the back image otherwise; in HALTED to the front image (R107, R8). -/
def Part.flipProducerRead (p : Part) (r : Request) (w : WinIdx) (l : Nat) : Part :=
  if (p.win w).state = .halted then p.flipConsumerRead r w l
  else if LineMap.has (p.carryMap w) l || p.carrying w l then p.flipView r w l ((p.win w).frontLine l) false
  else p.flipView r w l ((p.win w).backLine l) false

/-- A CARRY entry of the window for line `l` is held (R119). -/
def Part.carryHeld (p : Part) (w : WinIdx) (l : Nat) : Bool :=
  p.hold.any fun e => e.window = w && e.reason = .carry && e.line = .view l

/-- Hold a write for CARRY, with its demand entry at the tail of the demand list (R119). -/
def Part.holdCarry (p : Part) (t : Taken) (w : WinIdx) (l : Nat) : Part :=
  if p.canHold t then
    let p' := p.addHeld t .carry w (.view l) none
    { p' with carry := { p'.carry with demand := p'.carry.demand ++ [⟨w, l, t.seq⟩] } }
  else p.answer t.req .retry

/-- Cancel the carry of line `l` and go on as a redirected write; when the carry map empties, its effects follow
(R119, R118). -/
def Part.cancelCarry (p : Part) (r : Request) (w : WinIdx) (l : Nat) : Part :=
  ((p.setBank w { p.bank w with carry := LineMap.remove (p.bank w).carry l }).redirect r w l).carryEmptied w

/-- Tests 2 to 5 of R108, for a FLIP producer write that is not fenced. -/
def Part.flipAdmit (p : Part) (t : Taken) (w : WinIdx) (l : Nat) : Part :=
  if (p.win w).pubUnseen then p.holdOrRetry t .flipWait w (.view l)
  else if noBytes (carriedBytes t.req) then p.answer t.req .okay
  else if LineMap.has (p.carryMap w) l || p.carrying w l then
    if fullLineWrite t.req && !p.carrying w l && !p.carryHeld w l then p.cancelCarry t.req w l
    else p.holdCarry t w l
  else p.redirect t.req w l

/-- A FLIP producer write (R108, R8). -/
def Part.flipWrite (p : Part) (t : Taken) (w : WinIdx) (l : Nat) : Part :=
  match (p.win w).state with
  | .off => p
  | .live => if (p.win w).fenced t.req.master then p.holdOrRetry t .fence w (.view l) else p.flipAdmit t w l
  | .retiring => p.answer t.req .retry
  | .halted => p.answer t.req (.error .halted)

/-! ## The commit line (R58 to R63) -/

/-- The code of the publishing state in the commit status beat (Table 11.8). -/
def pubStateCode (g : Option Gen) : Nat :=
  match g with
  | none => 0
  | some g =>
    match g.state with
    | .opened => 0
    | .closed => 1
    | .checking => 2
    | .draining => 3
    | .stamping => 4

/-- The code of a window state (Tables 11.4 and 11.8). -/
def WinState.code : WinState → Nat
  | .off => 0
  | .live => 1
  | .retiring => 2
  | .halted => 3

/-- The commit status beat (R59, Table 11.8). Bits 6 to 3 of byte 3, which the table does not list, are 0 (DESIGN CHOICE,
unsafe, log 40). -/
def Window.statusBeat (win : Window) : Beat :=
  let number := match win.openGen with | none => win.lastGen | some g => g.number
  let remaining := match win.openGen with | none => 0 | some g => g.remaining
  let pending := match win.openGen with | none => false | some g => g.closePending
  beatOfBytes fun j =>
    match j with
    | 0 => number
    | 1 => BitVec.ofNat 8 remaining
    | 2 => BitVec.ofNat 8 win.state.code
    | 3 => BitVec.ofNat 8 (bit pending * 128 + pubStateCode win.pubGen)
    | 4 => win.stampCount.setWidth 8
    | 5 => (win.stampCount >>> 8).setWidth 8
    | 6 => (win.stampCount >>> 16).setWidth 8
    | _ => 0

/-- Close of the OPEN generation is reached with an operand: it is carried out at once when the window has no
publishing generation, and pends otherwise (R66). -/
def Part.reachClose (close : Part → WinIdx → Part) (p : Part) (w : WinIdx) (value : BitVec 32) : Part :=
  let p' := p.updWin w fun win =>
    { win with
      openGen := win.openGen.map fun g =>
        { g with
          remaining := 0
          operand := match win.cfg.source with | .commit => some value | .stamp => g.operand } }
  if (p'.win w).pubGen = none then close p' w
  else p'.updWin w fun win => { win with openGen := win.openGen.map fun g => { g with closePending := true } }

/-- Count an arrival (R61). -/
def Part.countArrival (p : Part) (w : WinIdx) (m : MasterId) : Part :=
  p.updWin w fun win =>
    { win with
      openGen := win.openGen.map fun g =>
        { g with remaining := g.remaining - 1, arrived := MasterSet.add g.arrived m } }

/-- A producer's arrival in a LIVE window (R61, R62). -/
def Part.arrive (close : Part → WinIdx → Part) (p : Part) (t : Taken) (w : WinIdx) : Part :=
  match (p.win w).openGen with
  | none => p.holdOrRetry t .fence w .commit
  | some g =>
    if MasterSet.has g.arrived t.req.master ∨ g.remaining = 0 then p.holdOrRetry t .fence w .commit
    else if g.remaining = 1 ∧ (p.win w).pubGen = none then
      ((p.countArrival w t.req.master).reachClose close w (arrivalValue t.req)).answer t.req .okay
    else if p.canHold t then
      let p' := (p.countArrival w t.req.master).addHeld t .close w .commit (some g.number)
      if g.remaining = 1 then p'.reachClose close w (arrivalValue t.req) else p'
    else p.answer t.req .retry

/-- A commit-arrival (R60, R8, R61). -/
def Part.commitArrival (close : Part → WinIdx → Part) (p : Part) (t : Taken) (w : WinIdx) : Part :=
  if !MasterSet.has (p.win w).cfg.producers t.req.master then p.refuseWrite t.req w (p.win w).cfg.commitAddr
  else
    match (p.win w).state with
    | .off => p
    | .live => p.arrive close t w
    | .retiring => p.answer t.req .retry
    | .halted => p.answer t.req (.error .halted)

/-! ## The order of tests of R42 -/

/-- Serve a request of a class while the device is RUNNING (R42 tests 3 and 4, Tables 1.3 and 3.2). -/
def Part.serveClass (close : Part → WinIdx → Part) (p : Part) (t : Taken) : RequestClass → Part
  | .passThrough => p.placePass t.req
  | .stagedProducerWrite w l => p.stagedWrite t w l
  | .stagedProducerRead w _ => p.stagedProducerRead t.req w
  | .stagedConsumerRead w _ => p.consumerRead t.req w
  | .stagedConsumerWrite w _ => p.refuseWrite t.req w (lineOf t.req.addr)
  | .flipProducerWrite w l => p.flipWrite t w l
  | .flipProducerRead w l => p.flipProducerRead t.req w l
  | .flipConsumerRead w l => p.flipConsumerRead t.req w l
  | .flipConsumerWrite w l => p.refuseWrite t.req w ((p.win w).viewLine l)
  | .commitArrival w => p.commitArrival close t w
  | .commitStatusRead w => p.answerData t.req [(p.win w).statusBeat]
  | .commitMalformed _ => p.answer t.req (.error .commitForm)

/-- Serve a taken request by the order of tests of R42. -/
def Part.serveWith (close : Part → WinIdx → Part) (p : Part) (t : Taken) : Part :=
  match classify p.windows t.req with
  | .passThrough => p.placePass t.req
  | c =>
    match p.device with
    | .restarting => p.answer t.req .retry
    | .running => p.serveClass close t c

/-- A close that a released request reaches while the generation closed before it is publishing pends (R67). -/
def Part.pendClose (p : Part) (w : WinIdx) : Part :=
  p.updWin w fun win => { win with openGen := win.openGen.map fun g => { g with closePending := true } }

/-- Serve a request released within an event in which it can carry out no close (R67 step 4; R114, R115, R118 and
R30, which release only writes). -/
def Part.serveReleased (p : Part) (t : Taken) : Part := p.serveWith Part.pendClose t

/-! ## Carrying out a close (R67) -/

/-- The guard operand of a generation at its close (R69). -/
def Window.closeOperand (win : Window) (g : Gen) : Option (BitVec 32) :=
  match win.cfg.source with
  | .commit => g.operand
  | .stamp => some win.stampCount

/-- A new OPEN generation (R5, R21). -/
def Gen.fresh (number : GenNum) (expected : Nat) : Gen :=
  { state := .opened, number := number, slots := [], creation := expected, remaining := expected, arrived := 0
    closePending := false, operand := none }

/-- Steps 1 and 2 of R67 on the record: the OPEN generation becomes CLOSED and the publishing generation, and a LIVE
window has a new OPEN generation. -/
def Window.closed (win : Window) (g : Gen) : Window :=
  let shut := { g with state := .closed, closePending := false, operand := win.closeOperand g }
  match win.state with
  | .live =>
    { win with
      pubGen := some shut
      openGen := some (Gen.fresh (win.lastGen + 1) win.cfg.expected)
      lastGen := win.lastGen + 1 }
  | .off | .retiring | .halted => { win with pubGen := some shut, openGen := none }

/-- Carry out the close of the OPEN generation (R67). -/
def Part.carryOutClose (p : Part) (w : WinIdx) : Part :=
  match (p.win w).openGen with
  | none => p
  | some g =>
    let p1 := p.updWin w fun win => win.closed g
    let p2 := p1.answerWhere (fun e => e.window = w && e.reason = .close && e.gen = some g.number) .okay
    let p3 := p2.releaseHeld Part.serveReleased w .fence (fun _ => true)
    p3.offerImmediate w

/-- Serve a taken request, or a FENCE entry released at a withdrawal: a close it reaches is carried out (R42,
R65). -/
def Part.serve (p : Part) (t : Taken) : Part := p.serveWith Part.carryOutClose t

/-- A close pending on the window's OPEN generation is carried out, while the device is RUNNING and the window has no
publishing generation (R68). -/
def Part.closeIfPending (p : Part) (w : WinIdx) : Part :=
  match (p.win w).openGen with
  | none => p
  | some g =>
    if g.closePending = true ∧ (p.win w).pubGen = none ∧ p.device = .running then p.carryOutClose w else p

end Sys2Proof.Machine
end

