-- ==== Sys2Proof/Machine/Publish.lean ====
section
/-! DEFINITION. The publish engine: the check, rejection, the drain, the flip, the stamp, release and TORN
(spec/05_the_publish_engine.md, R113 to R115). -/

namespace Sys2Proof.Machine

/-! ## Small changes of the engine and of the publishing generation -/

/-- Change the engine's work, when it has any. -/
def Part.updWork (p : Part) (f : Work → Work) : Part := { p with engine := p.engine.map f }

/-- Set the state of a window's publishing generation. -/
def Part.setPubState (p : Part) (w : WinIdx) (st : GenState) : Part :=
  p.updWin w fun win => { win with pubGen := win.pubGen.map fun g => { g with state := st } }

/-- The publishing generation's record leaves, and the engine becomes idle (R87, R89, R90). -/
def Part.endPublication (p : Part) (w : WinIdx) : Part :=
  { p.updWin w (fun win => { win with pubGen := none }) with engine := none }

/-! ## Stamp and release (R88 to R92) -/

/-- The steps of R92 after a release with PUBLISHED, but for the engine's next take, which is the event's last act
(log 1): a pending close, a pending halt, going OFF. -/
def Part.afterRelease (p : Part) (w : WinIdx) : Part :=
  let p1 := p.closeIfPending w
  let p2 := if (p1.win w).haltPending then p1.goHalted w else p1
  p2.retireIfDone w

/-- The lines written that PUBLISHED reports: the length of the drain list for STAGED, 0 for FLIP (R89). -/
def Part.linesWritten (p : Part) (w : WinIdx) (k : Work) : Nat :=
  match (p.win w).cfg.kind with
  | .staged => k.drainLength
  | .flip => 0

/-- The new stamp (R88). -/
def Window.newStamp (win : Window) : BitVec 32 := win.stampCount + 1

/-- The generation the engine works on is released with PUBLISHED (R89, R92). -/
def Part.release (p : Part) (k : Work) : Part :=
  let w := k.window
  let p1 := p.updWin w fun win =>
    { win with stampCount := win.newStamp, publishCount := win.publishCount + 1 }
  let p2 := p1.postWindow w (.published k.gen (p1.win w).stampCount (p.linesWritten w k))
  (p2.endPublication w).afterRelease w

/-- The stamp write: one beat, the four bytes at the stamp address enabled and carrying the new stamp, least
significant byte first (R88). -/
def Part.placeStamp (p : Part) (k : Work) : Part :=
  let a := (p.win k.window).cfg.stampAddr
  let v := (p.win k.window).newStamp
  p.place
    { id := 0, kind := .stampWrite, line := lineOf a, first := beatOf a, beats := 1
      bytes := lineBytesOf fun i =>
        if a.toNat % 64 ≤ i ∧ i < a.toNat % 64 + 4 then some ((v >>> (8 * (i - a.toNat % 64))).setWidth 8) else none
      origin := .part, window := some k.window, gen := some k.gen, carryLine := none
      read := ReadPart.plain, flipMark := 0 }

/-- The generation enters STAMPING: its stamp write is placed, or with no stamp address it is released at once
(R88). -/
def Part.enterStamping (p : Part) (k : Work) : Part :=
  let p1 := (p.setPubState k.window .stamping).updWork fun k => { k with phase := .stamping }
  if (p.win k.window).cfg.stampPresent then p1.placeStamp k else p1.release k

/-- TORN of a failed stamp write (R90): the record leaves, the engine is idle, the window goes HALTED. -/
def Part.stampTorn (p : Part) (k : Work) : Part :=
  let w := k.window
  let p1 := p.postWindow w
    (.torn k.gen (lineOf (p.win w).cfg.stampAddr) (p.linesWritten w k) 0 0 true)
  (p1.endPublication w).goHalted w

/-! ## The drain (R83 to R87) -/

/-- The drain write of a slot: eight beats, the slot's bytes with its mask as byte enables (R83). -/
def drainRequest (k : Work) (s : Slot) : DownReq :=
  { id := 0, kind := .drainWrite, line := s.line, first := 0, beats := 8, bytes := s.bytes, origin := .part
    window := some k.window, gen := some k.gen, carryLine := none, read := ReadPart.plain, flipMark := 0 }

/-- A STAGED generation enters DRAINING, its visibility point: one drain write is placed for each slot in slot-list
order, or with an empty list the generation enters STAMPING (R83). -/
def Part.enterDraining (p : Part) (k : Work) : Part :=
  let slots := slotsOf (p.win k.window).pubGen
  let k' := { k with phase := .draining, issued := 0, okay := 0, failed := 0, drainLength := slots.length, firstFailed := none }
  let p1 := (p.setPubState k.window .draining).updWork fun _ => k'
  if slots = [] then p1.enterStamping k'
  else slots.foldl (fun q s => q.place (drainRequest k' s)) p1

/-- A failing drain ends when every drain write issued has been answered or has expired: its remaining slots are freed,
TORN is posted, the record leaves, the engine is idle and the window halts (R87, R48). -/
def Part.tornIfEnded (p : Part) (k : Work) : Part :=
  if 0 < k.failed ∧ k.issued = k.okay + k.failed then
    let w := k.window
    let p1 := (p.freeSlotCount (slotCount (p.win w).pubGen)).endWaits w fun _ => true
    let p2 := p1.postWindow w
      (.torn k.gen (k.firstFailed.getD 0) k.okay k.failed (k.drainLength - k.issued) false)
    (p2.endPublication w).haltCause w
  else p

/-- A drain write is answered OKAY: its slot is freed and the count rises; a drain that is not failing enters STAMPING
at its last answer, a failing one may end (R85, R33, R48). -/
def Part.drainOkay (p : Part) (k : Work) (line : Addr) : Part :=
  let w := k.window
  let k' := { k with okay := k.okay + 1 }
  let held := (slotOf (p.win w).pubGen line).isSome
  let p1 := ((p.freeSlotCount (if held then 1 else 0)).updWin w fun win =>
    { win with pubGen := win.pubGen.map fun g => { g with slots := g.slots.filter fun s => s.line ≠ line } })
  let p2 := (p1.endWaits w fun a => a = line).updWork fun _ => k'
  if k'.failed = 0 then
    if k'.okay = k'.drainLength then p2.enterStamping k' else p2
  else p2.tornIfEnded k'

/-- The drain writes not yet issued leave the PUBLISH waiting list (R86). -/
def Part.withdrawDrains (p : Part) : Part :=
  { p with down := { p.down with publish := p.down.publish.filter fun r => r.kind ≠ .drainWrite } }

/-- A drain write is answered ERROR or expires: the first failure records its line and withdraws the drain writes not
yet issued; the drain may end (R86, R48). -/
def Part.drainFail (p : Part) (k : Work) (line : Addr) : Part :=
  let w := k.window
  let k' := { k with failed := k.failed + 1, firstFailed := if k.failed = 0 then some line else k.firstFailed }
  let p1 := (p.endWaits w fun a => a = line).updWork fun _ => k'
  (if k.failed = 0 then p1.withdrawDrains else p1).tornIfEnded k'

/-! ## The flip (R114) -/

/-- The flip: front image, maps, phase and carry order change together; the stamp proceeds; then the window's FLIP_WAIT
entries are released (R114). -/
def Part.flip (p : Part) (k : Work) : Part :=
  let w := k.window
  let p1 := (p.setBank w ⟨0, (p.bank w).dirty⟩).updWin w fun win =>
    { win with front := win.front.other, flipMark := p.nextId }
  let p2 := (p1.joinCarryOrder w).enterStamping k
  p2.releaseHeld Part.serveReleased w .flipWait fun _ => true

/-! ## The check (R78 to R80, R113) -/

/-- The check passes: a STAGED generation enters DRAINING, a FLIP generation is flipped (R80). -/
def Part.passCheck (p : Part) (k : Work) : Part :=
  match (p.win k.window).cfg.kind with
  | .staged => p.enterDraining k
  | .flip => p.flip k

/-- Every redirected write of the window has been answered or has expired (R113). -/
def Part.settled (p : Part) (w : WinIdx) : Bool :=
  (p.down.forwarded.all fun r => r.kind ≠ .redirectedWrite || r.window ≠ some w)
    && (p.down.table.all fun e => e.expired || e.req.kind ≠ .redirectedWrite || e.req.window ≠ some w)

/-- The guard read: one beat, the beat that holds the guard word (R78). -/
def guardRequest (a : Addr) (k : Work) : DownReq :=
  { id := 0, kind := .guardRead, line := lineOf a, first := beatOf a, beats := 1, bytes := [], origin := .part
    window := some k.window, gen := some k.gen, carryLine := none, read := ReadPart.plain, flipMark := 0 }

/-- The check of the generation the engine works on begins, if it has not begun and, for FLIP, the settle condition
holds: with guard operation NONE it passes at once, otherwise the guard read is placed (R78, R113). -/
def Part.beginCheck (p : Part) : Part :=
  match p.engine with
  | none => p
  | some k =>
    if k.phase = .checking ∧ k.begun = false ∧ ((p.win k.window).cfg.kind = .staged ∨ p.settled k.window = true) then
      if (p.win k.window).cfg.guardOp = .none then
        let k' := { k with begun := true }
        (p.updWork fun _ => k').passCheck k'
      else
        let k' := { k with begun := true, guardRead := some p.nextId }
        (p.updWork fun _ => k').place (guardRequest (p.win k.window).cfg.guardAddr k')
    else p

/-! ## Rejection (R81, R82, R36, R115) -/

/-- The slot list of the REOPEN merge of a rejected list into an OPEN list (R36). -/
def mergeSlots (rejected opened : List Slot) : List Slot :=
  rejected.map (fun r =>
      match opened.find? (fun o => o.line = r.line) with
      | some o => { o with bytes := overlay o.bytes r.bytes }
      | none => r)
    ++ opened.filter (fun o => rejected.all fun r => r.line ≠ o.line)

/-- The number of rejected slots the merge frees: those whose line the OPEN generation also holds (R36). -/
def mergeFreed (rejected opened : List Slot) : Nat :=
  rejected.countP fun r => opened.any fun o => o.line = r.line

/-- Post REJECTED and advance the reject count, which stays at 255 (R81, R6). -/
def Part.postRejected (p : Part) (w : WinIdx) (g : GenNum) (why : RejectReason) (act : RejectAction) : Part :=
  (p.postWindow w (.rejected g why act)).updWin w fun win =>
    { win with rejectCount := min Config.saturation (win.rejectCount + 1) }

/-- A rejected STAGED generation: discarded, or merged into the OPEN generation (R81, R36, R37). -/
def Part.rejectStaged (p : Part) (w : WinIdx) (g : Gen) (why : RejectReason) : Part :=
  match (p.win w).cfg.onReject, (p.win w).openGen with
  | .reopen, some o =>
    (((p.freeSlotCount (mergeFreed g.slots o.slots)).updWin w fun win =>
      { win with pubGen := none, openGen := some { o with slots := mergeSlots g.slots o.slots } }).postRejected
        w g.number why .reopened)
  | _, _ =>
    (((p.freeSlotCount g.slots.length).updWin w fun win => { win with pubGen := none }).postRejected
      w g.number why .discarded)

/-- A rejected FLIP generation becomes the OPEN generation again in the place of the one that gives way, or is
discarded and its dirty lines returned (R115). -/
def Part.rejectFlip (p : Part) (w : WinIdx) (g : Gen) (why : RejectReason) : Part :=
  match (p.win w).openGen with
  | some o =>
    let g' :=
      { g with
        state := .opened, creation := o.creation, remaining := o.remaining, arrived := o.arrived
        closePending := o.closePending, operand := o.operand }
    let p1 := p.updWin w fun win => { win with pubGen := none, openGen := some g' }
    let p2 : Part := { p1 with
      hold := p1.hold.map fun e =>
        if e.window = w && e.reason = .close && e.gen = some o.number then { e with gen := some g.number } else e }
    (p2.releaseHeld Part.serveReleased w .flipWait fun _ => true).postRejected w g.number why .reopened
  | none =>
    (((p.updWin w fun win => { win with pubGen := none }).returnDirty w).postRejected w g.number why .discarded)

/-- The generation the engine checks is rejected, and the rejection ends: the engine is idle, a pending close is carried
out, a RETIRING window may go OFF (R81, R82, R115). -/
def Part.reject (p : Part) (k : Work) (why : RejectReason) : Part :=
  let w := k.window
  let p0 : Part := { p with engine := none }
  match (p.win w).pubGen with
  | none => p0
  | some g =>
    let p1 :=
      match (p.win w).cfg.kind with
      | .staged => p0.rejectStaged w g why
      | .flip => p0.rejectFlip w g why
    (p1.closeIfPending w).retireIfDone w

/-! ## The ends of the engine's requests (Table 10.4) -/

/-- The engine's work, when the guard read `id` is the one it waits for (R79). -/
def Part.guardedWork (p : Part) (id : Nat) : Option Work :=
  match p.engine with
  | none => none
  | some k => if k.phase = .checking ∧ k.guardRead = some id then some k else none

/-- The operand the guard word is compared with (R78). -/
def Part.guardOperand (p : Part) (w : WinIdx) : BitVec 32 :=
  match (p.win w).pubGen with
  | none => 0
  | some g => g.operand.getD 0

/-- The guard word of an answer: the four bytes of the beat from the guard address on (R78). -/
def guardWord (a : Addr) (data : List Beat) : BitVec 32 := beatWord (data[0]?.getD 0) (a.toNat % 8)

/-- A guard read ends with an answer (R78, R79); one whose generation is no longer the engine's work changes nothing. -/
def Part.guardEnds (p : Part) (id : Nat) (a : MemAnswer) : Part :=
  match p.guardedWork id with
  | none => p
  | some k =>
    match a with
    | .error => p.reject k .guardError
    | .okay data =>
      if guardPasses (p.win k.window).cfg.guardOp (guardWord (p.win k.window).cfg.guardAddr data) (p.guardOperand k.window) then
        p.passCheck k
      else p.reject k .guardFalse

/-- The engine's work, when it drains. -/
def Part.drainWork (p : Part) : Option Work :=
  match p.engine with
  | none => none
  | some k => if k.phase = .draining then some k else none

/-- A drain write ends with an answer (R85, R86). -/
def Part.drainEnds (p : Part) (line : Addr) (a : MemAnswer) : Part :=
  match p.drainWork with
  | none => p
  | some k =>
    match a with
    | .okay _ => p.drainOkay k line
    | .error => p.drainFail k line

/-- A stamp write ends with an answer (R89, R90). -/
def Part.stampEnds (p : Part) (a : MemAnswer) : Part :=
  match p.engine with
  | none => p
  | some k =>
    if k.phase = .stamping then
      match a with
      | .okay _ => p.release k
      | .error => p.stampTorn k
    else p

/-! ## Taking the head of the queue (R77) -/

/-- The engine takes the window at the head of the publish queue, and the check begins (R77, R78). Nothing happens
unless the engine is idle, the device RUNNING and the queue not empty. -/
def Part.takeHead (p : Part) : Part :=
  match p.engine, p.device, p.queue with
  | none, .running, w :: rest =>
    match (p.win w).pubGen with
    | none => { p with queue := rest }
    | some g =>
      let k : Work :=
        { window := w, gen := g.number, phase := .checking, issued := 0, okay := 0, failed := 0, drainLength := 0
          firstFailed := none, begun := false, guardRead := none }
      (({ p with queue := rest, engine := some k } : Part).setPubState w .checking).beginCheck
  | _, _, _ => p

/-- The engine's takes within one event, until it is busy or the queue is empty (R77, R82, R92; log 22). -/
def Part.takeAll : Nat → Part → Part
  | 0, p => p
  | n + 1, p =>
    match p.engine, p.device, p.queue with
    | none, .running, _ :: _ => Part.takeAll n p.takeHead
    | _, _, _ => p

end Sys2Proof.Machine
end

