-- ==== Sys2Proof/Machine/Engines.lean ====
section
/-! DEFINITION. The acts that end an event: the engine's takes, the offer pass, the carry engine's beginnings, the
downstream arbiter's grants and the warm reset completion (R77, R30, R117, R155, R167; log 1). -/

namespace Sys2Proof.Machine

/-! ## The offer pass (R30) -/

/-- A SPACE entry is servable: its window is LIVE and holds fewer slots than its quota (R30). -/
def Part.servable (p : Part) (e : HoldEntry) : Bool :=
  e.reason = .space && (p.win e.window).state = .live
    && decide ((p.win e.window).holding < (p.win e.window).cfg.quota)

/-- The offer pass, for at most `fuel` entries: while a slot is free, the oldest servable SPACE entry is released and
served again (R30). -/
def Part.offerPass : Nat → Part → Part
  | 0, p => p
  | n + 1, p =>
    if p.freeSlots = 0 then p
    else
      match p.hold.find? p.servable with
      | none => p
      | some e => Part.offerPass n ((p.dropHeld e.seq).serveReleased e.released)

/-- The offer pass that follows an event, when one is owed (R32). -/
def Part.offerIfDue (p : Part) : Part :=
  if p.offerDue then Part.offerPass p.hold.length { p with offerDue := false } else p

/-! ## The carry engine (R117, R118) -/

/-- A redirected write to a memory line, of whichever window took it, is still in the FORWARDED waiting list (R110
order 3, R117). -/
def Part.redirectWaiting (p : Part) (line : Addr) : Bool :=
  p.down.forwarded.any fun r => r.kind = .redirectedWrite && r.line = line

/-- Line `l` of window `w` is startable (R117). -/
def Part.startable (p : Part) (w : WinIdx) (l : Nat) : Bool :=
  LineMap.has (p.carryMap w) l && !p.carrying w l && !p.redirectWaiting ((p.win w).backLine l)
    && !(p.win w).carryFailed

/-- The first startable line of the windows listed, each in ascending line index (R117). -/
def Part.firstStartable (p : Part) : List WinIdx → Option (WinIdx × Nat)
  | [] => none
  | w :: ws =>
    match firstIndex (p.startable w) (p.win w).cfg.lines 0 with
    | some l => some (w, l)
    | none => p.firstStartable ws

/-- The line the carry engine chooses: of the demand list first, then of the carry order (R117). -/
def Part.nextCarry (p : Part) : Option (WinIdx × Nat) :=
  match p.carry.demand.find? (fun d => p.startable d.window d.line) with
  | some d => some (d.window, d.line)
  | none => p.firstStartable p.carry.order

/-- A carry read of line `l` from the front image (R118). -/
def Part.carryReadRequest (p : Part) (w : WinIdx) (l : Nat) : DownReq :=
  { id := 0, kind := .carryRead, line := (p.win w).frontLine l, first := 0, beats := 8, bytes := [], origin := .part
    window := some w, gen := none, carryLine := some l, read := ReadPart.plain, flipMark := 0 }

/-- A carry write of line `l` to the back image with the data of the read's answer (R118). -/
def Part.carryWriteRequest (p : Part) (w : WinIdx) (l : Nat) (data : List Beat) : DownReq :=
  { id := 0, kind := .carryWrite, line := (p.win w).backLine l, first := 0, beats := 8, bytes := lineOfAnswer data
    origin := .part, window := some w, gen := none, carryLine := some l, read := ReadPart.plain
    flipMark := (p.win w).flipMark }

/-- Begin the carry of a line: it is in flight, and its carry read is placed (R116, R118). -/
def Part.beginCarry (p : Part) (w : WinIdx) (l : Nat) : Part :=
  ({ p with carry := { p.carry with inFlight := p.carry.inFlight ++ [⟨w, l, p.nextId⟩] } } : Part).place
    (p.carryReadRequest w l)

/-- The carry engine begins carries, at most `fuel`, while the device is RUNNING, fewer than 4 are in flight and a line
can be chosen (R117). -/
def Part.beginCarries : Nat → Part → Part
  | 0, p => p
  | n + 1, p =>
    if p.device = .running ∧ p.carry.inFlight.length < Config.carryLimit then
      match p.nextCarry with
      | none => p
      | some (w, l) => Part.beginCarries n (p.beginCarry w l)
    else p

/-- The carry engine begins the carries it can (R117). -/
def Part.carryEngine (p : Part) : Part := Part.beginCarries Config.carryLimit p

/-- A carry fails (R121): the first failure since the window became LIVE posts CARRY_FAILED, marks the window's carry
failed and is a halt cause. -/
def Part.carryFails (p : Part) (c : Carry) : Part :=
  let w := c.window
  let p1 : Part := { p with carry := { p.carry with inFlight := p.carry.inFlight.filter fun x => x ≠ c } }
  if ((p.win w).state = .live ∨ (p.win w).state = .retiring) ∧ (p.win w).haltPending = false ∧ (p.win w).carryFailed = false then
    ((p1.postWindow w (.carryFailed ((p.win w).viewLine c.line))).updWin w fun win =>
      { win with carryFailed := true }).haltCause w
  else p1

/-- A carry read is answered OKAY: the carry write is placed, and the carry waits for it (R118). -/
def Part.carryReadOkay (p : Part) (c : Carry) (data : List Beat) : Part :=
  ({ p with
      carry :=
        { p.carry with
          inFlight := p.carry.inFlight.map fun x => if x = c then { x with request := p.nextId } else x } } : Part).place
    (p.carryWriteRequest c.window c.line data)

/-- A carry write is answered OKAY: the carry bit clears, the line's CARRY entries are released, and when the carry map
is now empty its effects follow (R118). -/
def Part.carryWriteOkay (p : Part) (c : Carry) : Part :=
  let w := c.window
  let p1 : Part := { p with carry := { p.carry with inFlight := p.carry.inFlight.filter fun x => x ≠ c } }
  let p2 := p1.setBank w { p1.bank w with carry := LineMap.remove (p1.bank w).carry c.line }
  let p3 := p2.releaseHeld Part.serveReleased w .carry fun e => e.line = .view c.line
  p3.carryEmptied w

/-- The carry in flight that waits for a request (R121: the request of a carry no longer in flight changes nothing). -/
def Part.carryOf (p : Part) (id : Nat) : Option Carry := p.carry.inFlight.find? fun c => c.request = id

/-- A carry read ends with an answer (R118, R121). -/
def Part.carryReadEnds (p : Part) (id : Nat) (a : MemAnswer) : Part :=
  match p.carryOf id with
  | none => p
  | some c =>
    match a with
    | .okay data => p.carryReadOkay c data
    | .error => p.carryFails c

/-- A carry write ends with an answer (R118, R121). -/
def Part.carryWriteEnds (p : Part) (id : Nat) (a : MemAnswer) : Part :=
  match p.carryOf id with
  | none => p
  | some c =>
    match a with
    | .okay _ => p.carryWriteOkay c
    | .error => p.carryFails c

/-! ## The downstream arbiter (R151, R155) -/

/-- Issue a request: it leaves its waiting list, its entry is made, its class is the last granted one (R151, R155); for
a drain write the count of lines issued rises (R84). -/
def Part.issue (p : Part) (r : DownReq) : Part :=
  let entry : Entry := ⟨r, p.timers.count + p.timers.answerLimit.setWidth 32, false⟩
  let d : Down :=
    { forwarded := p.down.forwarded.filter fun q => q.id ≠ r.id
      publish := p.down.publish.filter fun q => q.id ≠ r.id
      carry := p.down.carry.filter fun q => q.id ≠ r.id
      table := p.down.table ++ [entry]
      last := r.kind.cls }
  let p1 : Part := { p with down := d }
  if r.kind = .drainWrite then p1.updWork fun k => { k with issued := k.issued + 1 } else p1

/-- One grant: the arbiter's choice is issued, and the issue of a redirected write lets the carry engine test again
(R155, R117). -/
def Part.grant (p : Part) (r : DownReq) : Part :=
  if r.kind = .redirectedWrite then (p.issue r).carryEngine else p.issue r

/-- The arbiter grants, at most `fuel` times, until no free entry remains or no class offers an issuable candidate
(R155). -/
def Part.grants : Nat → Part → Part
  | 0, p => p
  | n + 1, p =>
    match p.down.grantee with
    | none => p
    | some r => Part.grants n (p.grant r)

/-- The arbiter grants all it can: never more than the 32 entries of the table. -/
def Part.grantAll (p : Part) : Part := Part.grants Config.tableEntries p

/-! ## The warm reset completion (R167, R168) -/

/-- The three conditions of R167, while the device is RESTARTING. -/
def Part.restartSettled (p : Part) : Bool :=
  p.device = .restarting && p.engine.isNone && p.carry.inFlight.isEmpty && p.down.partSettled

/-- A window record after the warm reset completion (R18). -/
def Window.warmReset (win : Window) : Window :=
  { win with
    state := .off, openGen := none, pubGen := none, lastGen := 0, publishCount := 0, rejectCount := 0
    noticeArmed := true, haltPending := false, carryFailed := false }

/-- The notify unit after the warm reset completion: RESTARTED is its one record (R146). -/
def Notify.warmReset (n : Notify) : Notify :=
  { n with events := [⟨.restarted, n.devPriority, n.devTarget, none⟩], loss := 0 }

/-- The warm reset completion (R168, R18, R38, R95, R123, R146). -/
def Part.complete (p : Part) : Part :=
  { p with
    device := .running
    windows := p.windows.map Window.warmReset
    freeSlots := Config.slots
    offerDue := false
    queue := []
    engine := none
    banks := Vector.replicate 4 Bank.clear
    carry := CarryEngine.reset
    hold := []
    notify := p.notify.warmReset
    link := p.link.map fun f => { f with chosen := none } }

/-- The completion falls in the first event at which its conditions hold (R167). -/
def Part.completeIfSettled (p : Part) : Part := if p.restartSettled then p.complete else p

/-! ## The end of an event -/

/-- The end of an event that reaches only the ports: carries that can begin, then grants (R117, R155). -/
def Part.portEnd (p : Part) : Part := p.carryEngine.grantAll

/-- The end of an event that may reach the windows, the store or the engines: the engine's takes, the offer pass owed,
carries, grants, and the warm reset completion (log 1, log 21). -/
def Part.eventEnd (p : Part) : Part :=
  ((Part.takeAll Config.engineRounds p).offerIfDue).portEnd.completeIfSettled

end Sys2Proof.Machine
end

