-- ==== Sys2Proof/Machine/Layouts.lean ====
section
/-! DEFINITION. The software-visible layouts of the management link: GET_STATUS (Table 11.3), READ_WINDOW
(Table 11.4), the event record (Tables 11.6 and 11.7), status codes (Table 11.2), and the frame of a command. -/

namespace Sys2Proof.Machine

/-- A number as one byte. -/
def byte (n : Nat) : Byte := BitVec.ofNat 8 n

/-- The code of a status (Table 11.2). -/
def Status.code : Status → Byte
  | .ok => 0x00
  | .accepted => 0x01
  | .badCode => 0x80
  | .badArg => 0x81
  | .badState => 0x82
  | .busy => 0x83

/-! ## GET_STATUS (Table 11.3) -/

/-- The code of an engine phase (Table 11.3). -/
def Phase.code : Phase → Nat
  | .checking => 2
  | .draining => 3
  | .stamping => 4

/-- Bytes 4 to 12: the engine; an idle engine reads as zeros (DEDUCED from R77 and R95, log 18). Bits 6 to 4 of byte 4,
which Table 11.3 does not list, are 0 (DESIGN CHOICE, unsafe, log 40). -/
def engineBytes (e : Option Work) : List Byte :=
  match e with
  | none => List.replicate 9 0
  | some k =>
    [byte (128 + k.window.val), k.gen, byte k.phase.code]
      ++ bytesBE 2 k.issued ++ bytesBE 2 k.okay ++ bytesBE 2 k.failed

/-- Byte 20: the notify lines and the device-event setting. Bits 5 and 4, which Table 11.3 does not list, are 0 (DESIGN
CHOICE, unsafe, log 40). -/
def notifyByte (n : Notify) : Byte :=
  byte (bit (n.line 0) * 128 + bit (n.line 1) * 64 + n.devPriority.toNat * 2 + n.devTarget.toNat)

/-- Byte 21: polarity and last level of both strobe lines. Bits 7 to 4, which Table 11.3 does not list, are 0 (DESIGN
CHOICE, unsafe, log 40). -/
def strobeByte (s0 s1 : Strobe) : Byte :=
  byte (bit (s1.polarity = .falling) * 8 + bit (s1.last = .high) * 4 + bit (s0.polarity = .falling) * 2
    + bit (s0.last = .high))

/-- Bytes 22 to 25: the carry order, FFH for each empty place. -/
def orderBytes (ws : List WinIdx) : List Byte :=
  (List.range 4).map fun i =>
    match ws[i]? with
    | some w => byte w.val
    | none => 0xFF

/-- The 42 result bytes of GET_STATUS (R161, Table 11.3). -/
def Part.statusBytes (p : Part) : List Byte :=
  [byte (bit (p.device = .restarting))]
    ++ bytesBE 2 p.freeSlots
    ++ [byte p.queue.length]
    ++ engineBytes p.engine
    ++ [byte p.hold.length, byte p.notify.events.length,
        byte (p.notify.events.countP fun e => e.target = 0), byte (p.notify.events.countP fun e => e.target = 1),
        byte p.notify.loss, byte p.notify.floor0.toNat, byte p.notify.floor1.toNat,
        notifyByte p.notify, strobeByte p.stb0 p.stb1]
    ++ orderBytes p.carry.order
    ++ [byte p.carry.demand.length, byte p.carry.inFlight.length, byte p.openCount,
        byte (p.down.entries .forwarded), byte (p.down.entries .publish), byte (p.down.entries .carry),
        byte (p.down.table.countP fun e => e.expired)]
    ++ bytesBE 4 p.timers.count.toNat
    ++ [p.timers.divisor]
    ++ bytesBE 2 p.timers.holdLimit.toNat
    ++ bytesBE 2 p.timers.answerLimit.toNat

/-! ## READ_WINDOW (Table 11.4) -/

/-- The code of an image (Table 11.4). -/
def Image.code : Image → Nat
  | .imageA => 0
  | .imageB => 1

/-- The number of a generation record, 0 when absent. -/
def genNumber (g : Option Gen) : Byte :=
  match g with
  | none => 0
  | some g => g.number

/-- Arrivals remaining of a generation record, 0 when absent. -/
def genRemaining (g : Option Gen) : Nat :=
  match g with
  | none => 0
  | some g => g.remaining

/-- Close pending of a generation record, clear when absent. -/
def genPending (g : Option Gen) : Bool :=
  match g with
  | none => false
  | some g => g.closePending

/-- The 62 result bytes of READ_WINDOW(w) (R2, R23, R105, Table 11.4). For a window that holds no map bank the map
fields read 0 (R105; for STAGED, DEDUCED, log 17). Bits 7 to 5 of byte 42, which Table 11.4 does not list, are 0 (DESIGN
CHOICE, unsafe, log 40). -/
def Part.windowBytes (p : Part) (w : WinIdx) : List Byte :=
  let win := p.win w
  win.cfg.toBlock
    ++ [byte win.state.code, byte win.front.code,
        byte (bit (genPending win.openGen) * 16 + bit win.pubGen.isSome * 8 + bit win.openGen.isSome * 4
          + bit win.haltPending * 2 + bit win.noticeArmed),
        genNumber win.openGen, byte (genRemaining win.openGen),
        genNumber win.pubGen, byte (pubStateCode win.pubGen), win.lastGen]
    ++ bytesBE 4 win.stampCount.toNat
    ++ bytesBE 2 win.publishCount.toNat
    ++ [byte win.rejectCount]
    ++ bytesBE 2 win.holding
    ++ bytesBE 2 (LineMap.size (p.dirtyMap w) win.cfg.lines)
    ++ bytesBE 2 (LineMap.size (p.carryMap w) win.cfg.lines)
    ++ [byte (p.carry.inFlight.countP fun c => c.window = w)]

/-! ## The event record (Tables 11.6 and 11.7) -/

/-- The kind byte (Table 11.6). -/
def EventKind.code : EventKind → Byte
  | .published _ _ _ => 0x01
  | .rejected _ _ _ => 0x02
  | .torn _ _ _ _ _ _ => 0x03
  | .late _ => 0x04
  | .exhausted _ _ _ => 0x05
  | .holdExpired _ _ => 0x06
  | .refused _ _ => 0x07
  | .carryFailed _ => 0x08
  | .windowOff => 0x09
  | .memoryError _ _ => 0x0A
  | .restarted => 0x0B

/-- The code of a hold reason (Table 11.7). -/
def Reason.code : Reason → Nat
  | .fence => 1
  | .close => 2
  | .space => 3
  | .flipWait => 4
  | .carry => 5

/-- The detail bytes from byte 4 on (Table 11.7). -/
def EventKind.details : EventKind → List Byte
  | .published g stamp lines => [g] ++ bytesBE 4 stamp.toNat ++ bytesBE 2 lines
  | .rejected g why act =>
    [g, match why with | .guardFalse => 1 | .guardError => 2, match act with | .discarded => 1 | .reopened => 2]
  | .torn g line written failed abandoned stampFailed =>
    [g] ++ bytesBE 5 line.toNat ++ bytesBE 2 (bit stampFailed * 32768 + written) ++ bytesBE 2 failed
      ++ bytesBE 2 abandoned
  | .late l => [match l with | .stb0 => 0 | .stb1 => 1]
  | .exhausted m line o =>
    [m.setWidth 8] ++ bytesBE 5 line.toNat ++ [match o with | .held => 1 | .refused => 2]
  | .holdExpired m why => [m.setWidth 8, byte why.code]
  | .refused m line => [m.setWidth 8] ++ bytesBE 5 line.toNat
  | .memoryError m line => [m.setWidth 8] ++ bytesBE 5 line.toNat
  | .carryFailed line => [0] ++ bytesBE 5 line.toNat
  | .windowOff => []
  | .restarted => []

/-- The 12 detail bytes, those not listed being 0 (Table 11.6). -/
def padDetails (d : List Byte) : List Byte := (List.range 12).map fun i => d[i]?.getD 0

/-- The 16 bytes of an event record with the loss counter (Table 11.6). The window bits of byte 1 when no window is
present, and bits 7 to 1 of byte 2, to which the table gives no value, are 0 (DESIGN CHOICE, unsafe, log 39). -/
def Event.bytes (e : Event) (loss : Nat) : List Byte :=
  [e.kind.code,
   byte ((match e.window with | none => 0 | some w => 128 + w.val * 8) + e.priority.toNat),
   byte e.target.toNat, byte loss]
    ++ padDetails e.kind.details

/-- The NONE record (R142): kind NONE, no window, every detail byte 0, and the loss counter. Its priority and target
fields, which no rule gives, are 0, whichever target was asked for (DESIGN CHOICE, safe, log 34), and so are the bits beside
them that Table 11.6 gives no value (DESIGN CHOICE, unsafe, log 39). -/
def noneRecord (loss : Nat) : List Byte := [0, 0, 0, byte loss] ++ List.replicate 12 0

/-! ## Frames (R159, R160) -/

/-- What a command's own rule gives: the part after it, the status, the result bytes, and for TAKE_EVENT the place of
the chosen record. -/
structure Reply where
  part : Part
  status : Status
  results : List Byte
  chosen : Option Nat

/-- A reply without results. -/
def reply (p : Part) (st : Status) : Reply := ⟨p, st, [], none⟩

/-- The frame ends: MSEL is high (R159). The bits collected before a take are discarded, a partial byte among them, and a
record that a TAKE_EVENT chose stays in the queue (R143). -/
def Part.endFrame (p : Part) : Part := { p with msel := .high, link := none, incoming := [] }

/-- MSEL goes high: a frame ends (R159). While RESETn is low the part ignores it, and only the pin moves (R169). -/
def Part.deselect (p : Part) : Part :=
  match p.resetn with
  | .high => p.endFrame
  | .low => { p with msel := .high }

/-- MSEL goes low: a frame begins (R159), unless RESETn is low (R169). A pin that is low cannot go low. -/
def Part.select (p : Part) : Part :=
  match p.msel, p.resetn with
  | .high, .high => { p with msel := .lowInFrame }
  | .high, .low => { p with msel := .lowNoFrame }
  | .lowInFrame, _ | .lowNoFrame, _ => p

/-- The frame of a taken command. -/
def Part.openFrame (p : Part) (code : Byte) (st : Status) (results : List Byte) (chosen : Option Nat) : Part :=
  { p with msel := .lowInFrame, link := some ⟨code, st, results, chosen, 0⟩ }

/-- Take a command with `n` result bytes (R159, R160). A new frame needs MSEL to go high first, so a frame still open has
ended (DEDUCED, log 10). A command not carried out shifts out zeros. -/
def Part.takeCommand (p : Part) (code : Byte) (n : Nat) (own : Part → Reply) : Part :=
  let r := own p.endFrame
  match r.status with
  | .ok | .accepted => r.part.openFrame code r.status r.results r.chosen
  | .badCode | .badArg | .badState | .busy => p.endFrame.openFrame code r.status (List.replicate n 0) none

/-- A command that is answered BUSY while the device is RESTARTING (R160 test 2). -/
def notBusy (own : Part → Reply) (p : Part) : Reply :=
  match p.device with
  | .restarting => reply p .busy
  | .running => own p

/-- A command with a window argument: one outside 0 to 15 is answered BAD_ARG (R160 test 3). -/
def withWindow (w : Byte) (own : WinIdx → Part → Reply) (p : Part) : Reply :=
  if h : w.toNat < 16 then own ⟨w.toNat, h⟩ p else reply p .badArg

/-- The part while RESETn is low takes nothing, and its blocks change in nothing (R169). -/
def Part.whenUp (p : Part) (f : Part → Part) : Part :=
  match p.resetn with
  | .low => p
  | .high => f p

end Sys2Proof.Machine
end

