-- ==== Sys2Proof/Machine/Upstream.lean ====
section
/-! DEFINITION. REQUEST_TAKE: the upstream port takes a request (R147, R148, R42). -/

namespace Sys2Proof.Machine

/-- The outcome of a command that changes the part alone; every command has one (INVENTORY.md, Faults). -/
def State.onPart (s : State) (f : Part → Part) : Host.Outcome State Fault Refusal :=
  .next { s with part := f s.part }

/-- A request just taken: its place in the order of takes, its take time, and the deadline it has if it is held
(R124). -/
def Part.taken (p : Part) (r : Request) : Taken :=
  ⟨r, p.nextSeq, p.timers.count, p.timers.count + p.timers.holdLimit.setWidth 32, false⟩

/-- The open count rises, and the order of takes goes on (R147). -/
def Part.countTake (p : Part) : Part := { p with openCount := p.openCount + 1, nextSeq := p.nextSeq + 1 }

/-- What ends the event of a take, by the class of the request: a request placed is a grant opportunity (R155); a
FLIP write or an arrival may reach the engines; the rest are answered at the take and reach neither. -/
def RequestClass.finish (c : RequestClass) (p : Part) : Part :=
  match c with
  | .passThrough | .stagedProducerRead _ _ | .stagedConsumerRead _ _ | .flipProducerRead _ _
  | .flipConsumerRead _ _ => p.portEnd
  | .flipProducerWrite _ _ | .commitArrival _ => p.eventEnd
  | .stagedProducerWrite _ _ | .stagedConsumerWrite _ _ | .flipConsumerWrite _ _ | .commitStatusRead _
  | .commitMalformed _ => p

/-- The upstream port's take of an offered request: not taken while the open count is 64 (R147); refused for alignment
(R148); else classified and served (R42). -/
def Part.takeRequest (p : Part) (r : Request) : Part :=
  if p.openCount < Config.openLimit then
    if alignedRequest r then (classify p.windows r).finish (p.countTake.serve (p.taken r))
    else p.countTake.answer r (.error .align)
  else p

/-- REQUEST_TAKE. -/
def execRequestTake (r : Request) (s : State) : Host.Outcome State Fault Refusal :=
  s.onPart fun p => p.whenUp fun p => p.takeRequest r

end Sys2Proof.Machine
end

