-- ==== Sys2Proof/Machine/Answers.lean ====
section
/-! DEFINITION. Memory's answers to issued requests (R156, Table 10.4) and late and unmatched answers (R157). -/

namespace Sys2Proof.Machine

/-! ## The end of a forwarded request -/

/-- The data beats of an answer to a read of `n` beats. -/
def answerBeats (n : Nat) (data : List Beat) : List Beat := (List.range n).map fun k => data[k]?.getD 0

/-- A pass-read or pass-write ends (R43). -/
def Part.passEnds (p : Part) (r : DownReq) (a : MemAnswer) : Part :=
  match a, r.origin with
  | .okay data, .upstream m t _ =>
    p.respond m t .okay (if r.kind.isWrite then [] else answerBeats r.beats data)
  | .okay _, .part => p
  | .error, o => p.failForwarded o

/-- The beats of a view read: memory's data, then the publishing copy's valid bytes, then the OPEN copy's laid over it
(R53). -/
def viewBeats (r : DownReq) (data : List Beat) : List Beat :=
  let copies := overlay (r.read.openCopy.getD []) (r.read.pubCopy.getD [])
  beatsOf (fun i => (byteAt copies i).getD (answerByte data r.first i)) r.first r.beats

/-- A view read or merge read ends (R53, R106). -/
def Part.viewEnds (p : Part) (r : DownReq) (a : MemAnswer) : Part :=
  match a, r.origin with
  | .okay data, .upstream m t _ => p.respond m t .okay (viewBeats r data)
  | .okay _, .part => p
  | .error, o => p.failForwarded o

/-- A redirected write ends, and the settle wait is retested (R109, R113). -/
def Part.redirectedEnds (p : Part) (r : DownReq) (a : MemAnswer) : Part :=
  (match a, r.origin with
   | .okay _, .upstream m t _ => p.respond m t .okay []
   | .okay _, .part => p
   | .error, o => p.failForwarded o).beginCheck

/-! ## Matching an answer (R156) -/

/-- The entry leaves the table. -/
def Part.dropEntry (p : Part) (id : Nat) : Part :=
  { p with down := { p.down with table := p.down.table.filter fun e => e.req.id ≠ id } }

/-- The entry of an issued request of a kind. -/
def Part.entryFor (p : Part) (kinds : DownKind → Bool) (id : Nat) : Option Entry :=
  p.down.table.find? fun e => e.req.id = id && kinds e.req.kind

/-- Memory answers request `id`, of one of the kinds: a late answer is discarded with its entry (R157), any other goes to
its owner `own`, the entry leaving first (R156). An answer that matches no entry of the kinds is discarded (R156,
log 4). -/
def Part.answered (p : Part) (kinds : DownKind → Bool) (id : Nat) (own : Part → DownReq → Part) : Part :=
  match p.entryFor kinds id with
  | none => p
  | some e => if e.expired then (p.dropEntry id).portEnd else own (p.dropEntry id) e.req

/-- PASS_THROUGH_ANSWER. -/
def execPassThroughAnswer (id : Nat) (a : MemAnswer) (s : State) : Host.Outcome State Fault Refusal :=
  s.onPart fun p => p.whenUp fun p =>
    p.answered (fun k => k = .passRead || k = .passWrite) id fun q r => (q.passEnds r a).portEnd

/-- VIEW_READ_ANSWER. -/
def execViewReadAnswer (id : Nat) (a : MemAnswer) (s : State) : Host.Outcome State Fault Refusal :=
  s.onPart fun p => p.whenUp fun p =>
    p.answered (fun k => k = .viewRead) id fun q r => (q.viewEnds r a).portEnd

/-- REDIRECTED_WRITE_ANSWER. -/
def execRedirectedWriteAnswer (id : Nat) (a : MemAnswer) (s : State) : Host.Outcome State Fault Refusal :=
  s.onPart fun p => p.whenUp fun p =>
    p.answered (fun k => k = .redirectedWrite) id fun q r => (q.redirectedEnds r a).eventEnd

/-- GUARD_READ_ANSWER. -/
def execGuardReadAnswer (id : Nat) (a : MemAnswer) (s : State) : Host.Outcome State Fault Refusal :=
  s.onPart fun p => p.whenUp fun p =>
    p.answered (fun k => k = .guardRead) id fun q _ => (q.guardEnds id a).eventEnd

/-- DRAIN_WRITE_ANSWER. -/
def execDrainWriteAnswer (id : Nat) (a : MemAnswer) (s : State) : Host.Outcome State Fault Refusal :=
  s.onPart fun p => p.whenUp fun p =>
    p.answered (fun k => k = .drainWrite) id fun q r => (q.drainEnds r.line a).eventEnd

/-- STAMP_WRITE_ANSWER. -/
def execStampWriteAnswer (id : Nat) (a : MemAnswer) (s : State) : Host.Outcome State Fault Refusal :=
  s.onPart fun p => p.whenUp fun p =>
    p.answered (fun k => k = .stampWrite) id fun q _ => (q.stampEnds a).eventEnd

/-- CARRY_READ_ANSWER. -/
def execCarryReadAnswer (id : Nat) (a : MemAnswer) (s : State) : Host.Outcome State Fault Refusal :=
  s.onPart fun p => p.whenUp fun p =>
    p.answered (fun k => k = .carryRead) id fun q _ => (q.carryReadEnds id a).eventEnd

/-- CARRY_WRITE_ANSWER. -/
def execCarryWriteAnswer (id : Nat) (a : MemAnswer) (s : State) : Host.Outcome State Fault Refusal :=
  s.onPart fun p => p.whenUp fun p =>
    p.answered (fun k => k = .carryWrite) id fun q _ => (q.carryWriteEnds id a).eventEnd

/-- LATE_ANSWER: the EXPIRED entry leaves the table and the answer is discarded (R157); the entry freed is a grant
opportunity (R155). -/
def execLateAnswer (id : Nat) (_a : MemAnswer) (s : State) : Host.Outcome State Fault Refusal :=
  s.onPart fun p => p.whenUp fun p =>
    match p.down.table.find? (fun e => e.req.id = id && e.expired) with
    | none => p
    | some _ => (p.dropEntry id).portEnd

/-- UNMATCHED_ANSWER: discarded (R156). -/
def execUnmatchedAnswer (_id : Nat) (_a : MemAnswer) (s : State) : Host.Outcome State Fault Refusal :=
  s.onPart fun p => p

end Sys2Proof.Machine
end

