-- ==== Sys2Proof/Machine/Time.lean ====
section
/-! DEFINITION. The timebase and the deadlines it reaches: HOLD_EXPIRY (R128, R65), ENTRY_EXPIRY (R157) and
TIMEBASE_ADVANCE (R150). -/

namespace Sys2Proof.Machine

/-! ## Hold entries (R128) -/

/-- What becomes of the arrival of an expired CLOSE entry: withdrawn with its master's FENCE entries released while
close has not been reached, kept when close is pending (R65). -/
def Part.withdraw (p : Part) (e : HoldEntry) : Part :=
  match (p.win e.window).openGen with
  | none => p
  | some g =>
    if e.gen = some g.number ∧ 0 < g.remaining then
      (p.updWin e.window fun win =>
        { win with
          openGen := some { g with
            remaining := g.remaining + 1, arrived := MasterSet.remove g.arrived e.req.master } }).releaseHeld
        Part.serve e.window .fence fun x => x.req.master = e.req.master
    else p

/-- A hold entry expires: ERROR TIMEOUT, HOLD_EXPIRED, and for CLOSE the withdrawal (R128). -/
def Part.expireHeld (p : Part) (e : HoldEntry) : Part :=
  let p1 := ((p.dropHeld e.seq).answer e.req (.error .timeout)).postWindow e.window (.holdExpired e.req.master e.reason)
  match e.reason with
  | .close => p1.withdraw e
  | .fence | .space | .flipWait | .carry => p1

/-- The oldest hold entry whose deadline the timebase has reached (R128). -/
def Part.dueHeld (p : Part) : Option HoldEntry := p.hold.find? fun e => e.deadline = p.timers.count

/-- The expiry of the oldest hold entry that is due, if any. -/
def Part.holdExpiry (p : Part) : Part :=
  match p.dueHeld with
  | none => p
  | some e => (p.expireHeld e).eventEnd

/-- HOLD_EXPIRY. -/
def execHoldExpiry (s : State) : Host.Outcome State Fault Refusal :=
  s.onPart fun p => p.whenUp Part.holdExpiry

/-! ## Outstanding entries (R157) -/

/-- The entry is marked EXPIRED. -/
def Part.markExpired (p : Part) (id : Nat) : Part :=
  { p with
    down := { p.down with table := p.down.table.map fun e => if e.req.id = id then { e with expired := true } else e } }

/-- A request fails as though memory had answered ERROR, and its event ends (R157, Table 10.4). -/
def Part.requestFails (p : Part) (r : DownReq) : Part :=
  match r.kind with
  | .passRead | .passWrite => (p.passEnds r .error).portEnd
  | .viewRead => (p.viewEnds r .error).portEnd
  | .redirectedWrite => (p.redirectedEnds r .error).eventEnd
  | .guardRead => (p.guardEnds r.id .error).eventEnd
  | .drainWrite => (p.drainEnds r.line .error).eventEnd
  | .stampWrite => (p.stampEnds .error).eventEnd
  | .carryRead => (p.carryReadEnds r.id .error).eventEnd
  | .carryWrite => (p.carryWriteEnds r.id .error).eventEnd

/-- The entry is due: it is not EXPIRED, and the timebase has reached its deadline. -/
def Part.due (p : Part) (e : Entry) : Bool := !e.expired && e.deadline = p.timers.count

/-- The expiry of entry `id`, if it is due (R157). -/
def Part.entryExpiry (p : Part) (id : Nat) : Part :=
  match p.down.table.find? (fun e => e.req.id = id && p.due e) with
  | none => p
  | some e => (p.markExpired id).requestFails e.req

/-- ENTRY_EXPIRY. -/
def execEntryExpiry (id : Nat) (s : State) : Host.Outcome State Fault Refusal :=
  s.onPart fun p => p.whenUp fun p => p.entryExpiry id

/-! ## The advance (R150) -/

/-- The hold entries due at the present count expire, in the order the queue keeps (at most `fuel` of them). -/
def Part.expireHolds : Nat → Part → Part
  | 0, p => p
  | n + 1, p =>
    match p.dueHeld with
    | none => p
    | some _ => Part.expireHolds n p.holdExpiry

/-- The outstanding entries due at the present count expire, oldest first (at most `fuel` of them). -/
def Part.expireEntries : Nat → Part → Part
  | 0, p => p
  | n + 1, p =>
    match p.down.table.find? p.due with
    | none => p
    | some e => Part.expireEntries n (p.entryExpiry e.req.id)

/-- The expiries of the present moment that no command has yet asked for, hold entries first (DESIGN CHOICE, unsafe,
log 5). -/
def Part.closeMoment (p : Part) : Part :=
  Part.expireEntries Config.tableEntries (Part.expireHolds Config.holdEntries p)

/-- The count advances by one, modulo 2^32, and a new divisor applies from here (R150). -/
def Part.advance (p : Part) : Part :=
  { p with timers := { p.timers with count := p.timers.count + 1, activeDivisor := p.timers.divisor } }

/-- TIMEBASE_ADVANCE. -/
def execTimebaseAdvance (s : State) : Host.Outcome State Fault Refusal :=
  s.onPart fun p => p.whenUp fun p => p.closeMoment.advance

end Sys2Proof.Machine
end

