-- ==== Sys2Proof/Machine/Strobes.lean ====
section
/-! DEFINITION. The strobe unit: STROBE_EDGE and STROBE_LEVEL_CHANGE (R97 to R104). -/

namespace Sys2Proof.Machine

/-- The fields of a strobe line. -/
def Part.strobe (p : Part) (l : StrobeLine) : Strobe :=
  match l with
  | .stb0 => p.stb0
  | .stb1 => p.stb1

/-- The part with other fields for a strobe line. -/
def Part.setStrobe (p : Part) (l : StrobeLine) (st : Strobe) : Part :=
  match l with
  | .stb0 => { p with stb0 := st }
  | .stb1 => { p with stb1 := st }

/-- The level whose arrival is an edge: high for RISING, low for FALLING (R97). -/
def Polarity.active : Polarity → Level
  | .rising => .high
  | .falling => .low

/-- The other level. -/
def otherLevel : Level → Level
  | .low => .high
  | .high => .low

/-- The trigger that binds a window to a strobe line (R99). -/
def lineTrigger : StrobeLine → Trigger
  | .stb0 => .strobe0
  | .stb1 => .strobe1

/-- A sample finds the line at a level: the last level becomes it (R97). -/
def Part.sample (p : Part) (l : StrobeLine) (v : Level) : Part := p.setStrobe l { p.strobe l with last := v }

/-- What one edge does at one window (R99, R100, Table 6.1, R102). -/
def Part.edgeAt (p : Part) (l : StrobeLine) (w : WinIdx) : Part :=
  let win := p.win w
  if win.cfg.trigger = lineTrigger l ∧ (win.state = .live ∨ win.state = .retiring) then
    match win.pubGen with
    | none => p
    | some g =>
      match g.state with
      | .opened => p
      | .closed =>
        if p.queue.contains w then p
        else if p.carryMap w = 0 then p.joinQueue w
        else p.postWindow w (.late l)
      | .checking | .draining | .stamping => p.postWindow w (.late l)
  else p

/-- An edge acts on its bound windows in ascending number; the idle engine takes a window that joins before the edge
reaches the next (R101, R100, R77). -/
def Part.edge (p : Part) (l : StrobeLine) : Part :=
  allWindows.foldl (fun q w => Part.takeAll Config.engineRounds (q.edgeAt l w)) p

/-- A sample that finds the line at its active level: an edge when the last level differs (R97); while the device is
RESTARTING the edge reaches no window (R99). -/
def Part.activeSample (p : Part) (l : StrobeLine) : Part :=
  if (p.strobe l).last = (p.strobe l).polarity.active then p
  else
    match p.device with
    | .restarting => p.sample l (p.strobe l).polarity.active
    | .running => ((p.sample l (p.strobe l).polarity.active).edge l).eventEnd

/-- STROBE_EDGE. -/
def execStrobeEdge (l : StrobeLine) (s : State) : Host.Outcome State Fault Refusal :=
  s.onPart fun p => p.whenUp fun p => p.activeSample l

/-- STROBE_LEVEL_CHANGE: the line is sampled at its inactive level, which makes no edge (R97). -/
def execStrobeLevelChange (l : StrobeLine) (s : State) : Host.Outcome State Fault Refusal :=
  s.onPart fun p => p.whenUp fun p => p.sample l (otherLevel (p.strobe l).polarity.active)

end Sys2Proof.Machine
end

