-- ==== Sys2Proof/Machine/Steps.lean ====
section
/-! DEFINITION. The part's own steps as commands: ENGINE_TAKE (R77), CARRY_BEGIN (R117), DOWNSTREAM_GRANT (R155) and
WARM_RESET_COMPLETION (R167). Each performs its act where its conditions hold and changes nothing where they do not;
the same acts end every event that can make the conditions hold (log 1). -/

namespace Sys2Proof.Machine

/-- The conditions under which the engine takes a window (R77). -/
def Part.canTakeHead (p : Part) : Bool := p.engine.isNone && p.device = .running && !p.queue.isEmpty

/-- ENGINE_TAKE. -/
def execEngineTake (s : State) : Host.Outcome State Fault Refusal :=
  s.onPart fun p => p.whenUp fun p => if p.canTakeHead then p.takeHead.eventEnd else p

/-- CARRY_BEGIN. -/
def execCarryBegin (s : State) : Host.Outcome State Fault Refusal :=
  s.onPart fun p => p.whenUp fun p => p.carryEngine.grantAll

/-- DOWNSTREAM_GRANT. -/
def execDownstreamGrant (s : State) : Host.Outcome State Fault Refusal :=
  s.onPart fun p => p.whenUp fun p => p.grantAll

/-- WARM_RESET_COMPLETION. -/
def execWarmResetCompletion (s : State) : Host.Outcome State Fault Refusal :=
  s.onPart fun p => p.whenUp fun p => p.completeIfSettled

end Sys2Proof.Machine
end

