-- ==== Sys2Proof/Machine/WindowCommands.lean ====
section
/-! DEFINITION. The management commands about windows: READ_WINDOW, WINDOW_CONFIG, WINDOW_ADJUST, ENABLE, DISABLE_DRAIN,
DISABLE_DISCARD, CLOSE, DROP_OPEN, CLEAR_FAULT and SET_STAMP (spec/01_address_windows.md, R35, R72, R162). -/

namespace Sys2Proof.Machine

/-- READ_WINDOW(w): served in every window state and every device state (R2, R160). -/
def execReadWindow (w : Byte) (s : State) : Host.Outcome State Fault Refusal :=
  s.onPart fun p => p.whenUp fun p =>
    p.takeCommand 0x02 62 (withWindow w fun i q => ⟨q, .ok, q.windowBytes i, none⟩)

/-! ## Configuration -/

/-- WINDOW_CONFIG's own rule (R1): the configuration part is replaced while the window is OFF. -/
def Part.configure (block : List Byte) (w : WinIdx) (p : Part) : Reply :=
  if (p.win w).state = .off then
    reply (p.updWin w fun win => { win with cfg := WinConfig.ofBlock block }) .ok
  else reply p .badState

/-- WINDOW_CONFIG(w, block). -/
def execWindowConfig (w : Byte) (block : List Byte) (s : State) : Host.Outcome State Fault Refusal :=
  s.onPart fun p => p.whenUp fun p => p.takeCommand 0x10 0 (notBusy (withWindow w (Part.configure block)))

/-- The checks of WINDOW_ADJUST (R11, R162). -/
def adjustValid (producers : MasterSet) (expected : Byte) (quota : BitVec 16) (policy priority target : Byte) : Bool :=
  decide (1 ≤ expected.toNat) && decide (expected.toNat ≤ 15) && decide (1 ≤ quota.toNat)
    && decide (quota.toNat ≤ Config.maxQuota) && decide (policy.toNat ≤ 1) && decide (priority.toNat ≤ 7)
    && decide (target.toNat ≤ 1) && decide (expected.toNat ≤ MasterSet.size producers)

/-- The configuration part with the six adjustable fields replaced (R11). -/
def WinConfig.adjusted (c : WinConfig) (producers : MasterSet) (expected : Byte) (quota : BitVec 16)
    (policy priority target : Byte) : WinConfig :=
  { c with
    producers := producers
    expected := expected.toNat
    quota := quota.toNat
    policy := if policy = 1 then .wait else .refuse
    priority := priority.setWidth 3
    target := target.setWidth 1 }

/-- WINDOW_ADJUST's own rule: the fields are replaced in any window state, and an offer pass follows (R11, R30). -/
def Part.adjust (producers : MasterSet) (expected : Byte) (quota : BitVec 16) (policy priority target : Byte) (w : WinIdx)
    (p : Part) : Reply :=
  if adjustValid producers expected quota policy priority target then
    let p1 := p.updWin w fun win =>
      { win with cfg := win.cfg.adjusted producers expected quota policy priority target }
    reply p1.oweOffer.offerIfDue .ok
  else reply p .badArg

/-- WINDOW_ADJUST(w, ...). -/
def execWindowAdjust (w : Byte) (producers : MasterSet) (expected : Byte) (quota : BitVec 16)
    (policy priority target : Byte) (s : State) : Host.Outcome State Fault Refusal :=
  s.onPart fun p => p.whenUp fun p =>
    p.takeCommand 0x11 0 (notBusy (withWindow w (Part.adjust producers expected quota policy priority target)))

/-! ## ENABLE (R10) -/

/-- Check 1: sizes, and no code that Table 11.5 does not list (R10, R162). -/
def WinConfig.sizesValid (c : WinConfig) : Bool :=
  decide (1 ≤ c.lines)
    && decide (c.lines ≤ match c.kind with | .staged => Config.stagedLines | .flip => Config.flipLines)
    && decide (1 ≤ c.expected) && decide (c.expected ≤ 15) && decide (1 ≤ c.quota) && decide (c.quota ≤ Config.maxQuota)
    && c.trigger ≠ .unlisted && c.guardOp ≠ .unlisted5 && c.guardOp ≠ .unlisted6 && c.guardOp ≠ .unlisted7

/-- Check 2: the last byte of every claimed range lies below the end of the address space (R10). -/
def WinConfig.inAddressSpace (c : WinConfig) : Bool := c.claims.all fun r => decide (r.2 ≤ Config.addressEnd)

/-- Check 3: the window's own ranges do not overlap, but for a view range that starts at the base of image A (R10). -/
def WinConfig.ownRangesApart (c : WinConfig) : Bool :=
  (c.kind = .staged
      || ((c.viewBase = c.imageA || !ByteRange.overlaps c.viewRange c.rangeA)
        && !ByteRange.overlaps c.viewRange c.rangeB && !ByteRange.overlaps c.rangeA c.rangeB))
    && c.commitRange.all fun k => (c.viewRange :: c.imageRanges).all fun r => !ByteRange.overlaps k r

/-- The configuration parts of the other windows that are not OFF. -/
def Part.othersOn (p : Part) (w : WinIdx) : List WinConfig :=
  (allWindows.filter fun v => v ≠ w && (p.win v).state ≠ .off).map fun v => (p.win v).cfg

/-- Check 4: no claimed range overlaps one of another window or holds its guard or stamp word (R10). -/
def claimsApart (c : WinConfig) (others : List WinConfig) : Bool :=
  others.all fun o =>
    c.claims.all fun r => (o.claims.all fun q => !ByteRange.overlaps r q) && (o.words.all fun a => !ByteRange.holds r a)

/-- Check 5: the guard and stamp words lie outside every claimed range (R10). -/
def wordsOutside (c : WinConfig) (others : List WinConfig) : Bool :=
  (c :: others).all fun o => c.words.all fun a => o.claims.all fun r => !ByteRange.holds r a

/-- Check 6: the expected arrivals do not exceed the number of producers (R10). -/
def WinConfig.enoughProducers (c : WinConfig) : Bool := decide (c.expected ≤ MasterSet.size c.producers)

/-- Check 7, FLIP only: on-reject is REOPEN, and no other FLIP window that is not OFF holds the bank (R10). -/
def flipValid (c : WinConfig) (others : List WinConfig) : Bool :=
  c.kind = .staged || (c.onReject = .reopen && others.all fun o => o.kind = .staged || o.bank ≠ c.bank)

/-- Every check of R10. -/
def Part.enableValid (p : Part) (w : WinIdx) : Bool :=
  let c := (p.win w).cfg
  let others := p.othersOn w
  c.sizesValid && c.inAddressSpace && c.ownRangesApart && claimsApart c others && wordsOutside c others
    && c.enoughProducers && flipValid c others

/-- The record of a window made LIVE with an OPEN generation of a number (R10, R17). -/
def Window.enlivened (win : Window) (number : GenNum) : Window :=
  { win with
    state := .live
    openGen := some (Gen.fresh number win.cfg.expected)
    lastGen := number
    noticeArmed := true
    haltPending := false
    carryFailed := false }

/-- ENABLE's own rule (R10, R120). -/
def Part.enable (w : WinIdx) (p : Part) : Reply :=
  if (p.win w).state ≠ .off then reply p .badState
  else if p.enableValid w then
    reply ((p.updWin w fun win => win.enlivened 0).prime w).portEnd .ok
  else reply p .badArg

/-- ENABLE(w). -/
def execEnable (w : Byte) (s : State) : Host.Outcome State Fault Refusal :=
  s.onPart fun p => p.whenUp fun p => p.takeCommand 0x12 0 (notBusy (withWindow w Part.enable))

/-! ## DISABLE (R12 to R14) -/

/-- A HALTED window goes OFF at once: it gives up its bank with both maps cleared; no event, no hold entry (R14). -/
def Part.haltedOff (p : Part) (w : WinIdx) : Part :=
  (p.clearMaps w).updWin w fun win => { win with state := .off, carryFailed := false }

/-- DISABLE(w, DRAIN) forces a close of this OPEN generation: close pending is set; for STAGED it holds a slot or has
counted an arrival; for FLIP it is the building generation and its dirty map is not empty (R12 case 1). -/
def Part.forcesClose (p : Part) (w : WinIdx) (g : Gen) : Bool :=
  g.closePending
    || (match (p.win w).cfg.kind with
        | .staged => !g.slots.isEmpty || g.arrived ≠ 0
        | .flip => !(p.win w).pubUnseen && p.dirtyMap w ≠ 0)

/-- DISABLE(w, DRAIN) of a LIVE window: it becomes RETIRING; its FENCE, SPACE, FLIP_WAIT and CARRY entries are answered
RETRY before any close (R130); the OPEN generation is closed or dropped; the window may go OFF at once (R12). -/
def Part.drainWindow (p : Part) (w : WinIdx) : Part :=
  let p1 := (p.updWin w fun win => { win with state := .retiring }).answerWhere
    (fun e => e.window = w && e.reason ≠ .close) .retry
  let p2 :=
    match (p1.win w).openGen with
    | none => p1
    | some g =>
      if p1.forcesClose w g then
        if g.closePending then p1 else p1.reachClose Part.carryOutClose w 0
      else (p1.discardOpen w).answerWhere (fun e => e.window = w) .retry
  p2.retireIfDone w

/-- DISABLE(w, DISCARD) of a LIVE or RETIRING window (R13, R120, R130). -/
def Part.discardWindow (p : Part) (w : WinIdx) : Part :=
  let p1 := (p.updWin w fun win => { win with state := .retiring }).answerWhere (fun e => e.window = w) .retry
  ((((p1.discardOpen w).discardUnseen w).returnDirty w).retireIfDone w)

/-- DISABLE's own rule, by the mode byte: 0 DRAIN, 1 DISCARD, any other BAD_ARG (R12 to R14, R162). The mode is looked at
before the window state, so an OFF window with a mode other than 0 and 1 is answered BAD_ARG and not BAD_STATE (DESIGN
CHOICE, safe: R162 and R163 give both and no order, log 37). -/
def Part.disable (mode : Byte) (w : WinIdx) (p : Part) : Reply :=
  if mode = 0 ∨ mode = 1 then
    match (p.win w).state with
    | .off => reply p .badState
    | .halted => reply (p.haltedOff w) .ok
    | .live => reply (if mode = 0 then p.drainWindow w else p.discardWindow w).eventEnd .accepted
    | .retiring => reply (if mode = 0 then p else (p.discardWindow w).eventEnd) .accepted
  else reply p .badArg

/-- DISABLE(w, mode) with a mode byte other than 1: DRAIN, or a mode that is answered BAD_ARG (log 13). -/
def execDisableDrain (w mode : Byte) (s : State) : Host.Outcome State Fault Refusal :=
  s.onPart fun p => p.whenUp fun p => p.takeCommand 0x13 0 (notBusy (withWindow w (Part.disable mode)))

/-- DISABLE(w, DISCARD). -/
def execDisableDiscard (w : Byte) (s : State) : Host.Outcome State Fault Refusal :=
  s.onPart fun p => p.whenUp fun p => p.takeCommand 0x13 0 (notBusy (withWindow w (Part.disable 1)))

/-! ## CLOSE, DROP_OPEN, CLEAR_FAULT, SET_STAMP -/

/-- CLOSE's own rule (R72). -/
def Part.closeCommand (operand : BitVec 32) (w : WinIdx) (p : Part) : Reply :=
  if (p.win w).state = .live then
    if genPending (p.win w).openGen then reply p .ok
    else reply (p.reachClose Part.carryOutClose w operand).eventEnd .ok
  else reply p .badState

/-- CLOSE(w, operand). -/
def execClose (w : Byte) (operand : BitVec 32) (s : State) : Host.Outcome State Fault Refusal :=
  s.onPart fun p => p.whenUp fun p => p.takeCommand 0x14 0 (notBusy (withWindow w (Part.closeCommand operand)))

/-- The generation emptied, with its barrier count started again (R35). -/
def Gen.emptied (g : Gen) : Gen :=
  { g with slots := [], remaining := g.creation, arrived := 0, closePending := false }

/-- The effects of DROP_OPEN (R35). -/
def Part.emptyOpen (p : Part) (w : WinIdx) : Part :=
  (((p.freeSlotCount (slotCount (p.win w).openGen)).updWin w fun win =>
    { win with openGen := win.openGen.map Gen.emptied }).answerWhere
      (fun e => e.window = w && (e.reason = .close || e.reason = .fence)) .retry).offerIfDue

/-- DROP_OPEN's own rule (R35): a RETIRING window, of either kind, is answered BAD_STATE (R163); for any other FLIP
window BAD_ARG comes before BAD_STATE (DEDUCED, log 14). -/
def Part.dropOpenCommand (w : WinIdx) (p : Part) : Reply :=
  if (p.win w).state = .retiring then reply p .badState
  else
    match (p.win w).cfg.kind with
    | .flip => reply p .badArg
    | .staged => if (p.win w).state = .live then reply (p.emptyOpen w) .ok else reply p .badState

/-- DROP_OPEN(w). -/
def execDropOpen (w : Byte) (s : State) : Host.Outcome State Fault Refusal :=
  s.onPart fun p => p.whenUp fun p => p.takeCommand 0x15 0 (notBusy (withWindow w Part.dropOpenCommand))

/-- CLEAR_FAULT's own rule (R17, R120). -/
def Part.clearFault (w : WinIdx) (p : Part) : Reply :=
  if (p.win w).state = .halted then
    reply ((p.updWin w fun win => win.enlivened (win.lastGen + 1)).prime w).portEnd .ok
  else reply p .badState

/-- CLEAR_FAULT(w). -/
def execClearFault (w : Byte) (s : State) : Host.Outcome State Fault Refusal :=
  s.onPart fun p => p.whenUp fun p => p.takeCommand 0x16 0 (notBusy (withWindow w Part.clearFault))

/-- SET_STAMP's own rule (R6). -/
def Part.setStampCount (value : BitVec 32) (w : WinIdx) (p : Part) : Reply :=
  if (p.win w).pubGen = none then reply (p.updWin w fun win => { win with stampCount := value }) .ok
  else reply p .badState

/-- SET_STAMP(w, value). -/
def execSetStamp (w : Byte) (value : BitVec 32) (s : State) : Host.Outcome State Fault Refusal :=
  s.onPart fun p => p.whenUp fun p => p.takeCommand 0x17 0 (notBusy (withWindow w (Part.setStampCount value)))

end Sys2Proof.Machine
end

