-- ==== Sys2Proof/Machine/DeviceCommands.lean ====
section
/-! DEFINITION. The management commands about the device, the events and the timers, and the ends of frames:
GET_STATUS, SET_FLOOR, TAKE_EVENT, SET_DEVICE_EVENTS, SET_STROBE, SET_TIMERS, RESTART, UNKNOWN_COMMAND,
EVENT_RECORD_SHIFTED_OUT, FRAME_ABORTED and FRAME_END (spec/09, spec/11). -/

namespace Sys2Proof.Machine

/-- GET_STATUS: answered OK in every device state, and changes nothing (R161). -/
def execGetStatus (s : State) : Host.Outcome State Fault Refusal :=
  s.onPart fun p => p.whenUp fun p => p.takeCommand 0x01 42 fun q => ⟨q, .ok, q.statusBytes, none⟩

/-! ## The notify unit -/

/-- The floor of a target changed (R140). -/
def Notify.setFloor (n : Notify) (t v : Byte) : Notify :=
  if t = 0 then { n with floor0 := v.setWidth 3 } else { n with floor1 := v.setWidth 3 }

/-- SET_FLOOR's own rule (R140). -/
def Part.setFloor (t v : Byte) (p : Part) : Reply :=
  if t.toNat ≤ 1 ∧ v.toNat ≤ 7 then reply { p with notify := p.notify.setFloor t v } .ok else reply p .badArg

/-- SET_FLOOR(t, v). -/
def execSetFloor (t v : Byte) (s : State) : Host.Outcome State Fault Refusal :=
  s.onPart fun p => p.whenUp fun p => p.takeCommand 0x20 0 (notBusy (Part.setFloor t v))

/-- TAKE_EVENT's own rule (R142): the chosen record's bytes with the loss counter, or a NONE record. -/
def Part.takeEvent (t : Byte) (p : Part) : Reply :=
  if t.toNat ≤ 1 then
    match chooseEvent (t.setWidth 1) p.notify.events 0 none with
    | none => ⟨p, .ok, noneRecord p.notify.loss, none⟩
    | some (i, _) =>
      match p.notify.events[i]? with
      | none => ⟨p, .ok, noneRecord p.notify.loss, none⟩
      | some e => ⟨p, .ok, e.bytes p.notify.loss, some i⟩
  else reply p .badArg

/-- TAKE_EVENT(t). -/
def execTakeEvent (t : Byte) (s : State) : Host.Outcome State Fault Refusal :=
  s.onPart fun p => p.whenUp fun p => p.takeCommand 0x21 16 (notBusy (Part.takeEvent t))

/-- The chosen record leaves the queue once its last byte is out (R143); with no chosen record nothing is removed. -/
def Part.shiftedOut (p : Part) : Part :=
  match p.link with
  | none => p
  | some f =>
    match f.chosen with
    | none => p
    | some i =>
      { p with
        notify := { p.notify with events := p.notify.events.eraseIdx i }
        link := some { f with chosen := none } }

/-- EVENT_RECORD_SHIFTED_OUT. -/
def execEventRecordShiftedOut (s : State) : Host.Outcome State Fault Refusal :=
  s.onPart fun p => p.whenUp Part.shiftedOut

/-- SET_DEVICE_EVENTS' own rule (R137). -/
def Part.setDeviceEvents (priority target : Byte) (p : Part) : Reply :=
  if priority.toNat ≤ 7 ∧ target.toNat ≤ 1 then
    reply { p with
      notify := { p.notify with devPriority := priority.setWidth 3, devTarget := target.setWidth 1 } } .ok
  else reply p .badArg

/-- SET_DEVICE_EVENTS(priority, target). -/
def execSetDeviceEvents (priority target : Byte) (s : State) : Host.Outcome State Fault Refusal :=
  s.onPart fun p => p.whenUp fun p => p.takeCommand 0x22 0 (notBusy (Part.setDeviceEvents priority target))

/-! ## Strobes and timers -/

/-- The strobe line of a line number. -/
def strobeLineOf (n : Byte) : StrobeLine := if n = 0 then .stb0 else .stb1

/-- The polarity of a polarity byte (R162). -/
def polarityOf (n : Byte) : Polarity := if n = 0 then .rising else .falling

/-- SET_STROBE's own rule (R98): the polarity changes, the last level does not. -/
def Part.setPolarity (line polarity : Byte) (p : Part) : Reply :=
  if line.toNat ≤ 1 ∧ polarity.toNat ≤ 1 then
    reply (p.setStrobe (strobeLineOf line) { p.strobe (strobeLineOf line) with polarity := polarityOf polarity }) .ok
  else reply p .badArg

/-- SET_STROBE(s, polarity). -/
def execSetStrobe (line polarity : Byte) (s : State) : Host.Outcome State Fault Refusal :=
  s.onPart fun p => p.whenUp fun p => p.takeCommand 0x23 0 (notBusy (Part.setPolarity line polarity))

/-- SET_TIMERS' own rule (R164, R150). -/
def Part.setTimers (divisor : Byte) (hold answer : BitVec 16) (p : Part) : Reply :=
  if 1 ≤ divisor.toNat ∧ divisor.toNat ≤ 250 ∧ hold ≠ 0 ∧ answer ≠ 0 then
    reply { p with
      timers := { p.timers with divisor := divisor, holdLimit := hold, answerLimit := answer } } .ok
  else reply p .badArg

/-- SET_TIMERS(divisor, hold limit, answer limit). -/
def execSetTimers (divisor : Byte) (hold answer : BitVec 16) (s : State) : Host.Outcome State Fault Refusal :=
  s.onPart fun p => p.whenUp fun p => p.takeCommand 0x24 0 (notBusy (Part.setTimers divisor hold answer))

/-! ## RESTART (R165, R133, R94, R123) -/

/-- A CHECKING generation is abandoned (R94). -/
def Part.abandonCheck (p : Part) : Part :=
  match p.engine with
  | none => p
  | some k => p.stopCheck k.window

/-- The carry reads not yet issued are removed, and their carries are no longer in flight (R123). -/
def Part.removeCarryReads (p : Part) : Part :=
  { p with
    carry :=
      { p.carry with
        inFlight := p.carry.inFlight.filter fun c => p.down.carry.all fun r => r.kind ≠ .carryRead || r.id ≠ c.request }
    down := { p.down with carry := p.down.carry.filter fun r => r.kind ≠ .carryRead } }

/-- RESTART's own rule: the device is RESTARTING, the hold queue is answered RETRY, the check is abandoned, and the carry
reads not issued are removed; the completion may fall in the same event (R165, R167). -/
def Part.restartDevice (p : Part) : Reply :=
  let p1 : Part := { p.answerWhere (fun _ => true) .retry with device := .restarting }
  reply (p1.abandonCheck.removeCarryReads).eventEnd .accepted

/-- RESTART. -/
def execRestart (s : State) : Host.Outcome State Fault Refusal :=
  s.onPart fun p => p.whenUp fun p => p.takeCommand 0x3F 0 (notBusy Part.restartDevice)

/-! ## Frames without a command of Table 11.1 -/

/-- UNKNOWN_COMMAND: answered BAD_CODE, without effect (R159, R160). -/
def execUnknownCommand (code : Byte) (s : State) : Host.Outcome State Fault Refusal :=
  s.onPart fun p => p.whenUp fun p => p.takeCommand code 0 fun q => reply q .badCode

/-- FRAME_ABORTED: MSEL goes high before the take; no command is taken and nothing in the part changes (R159). -/
def execFrameAborted (s : State) : Host.Outcome State Fault Refusal :=
  s.onPart Part.deselect

/-- FRAME_END: MSEL goes high after the take; a record that a TAKE_EVENT chose and that is not all shifted out stays in
the queue (R159, R143). -/
def execFrameEnd (s : State) : Host.Outcome State Fault Refusal :=
  s.onPart Part.deselect

end Sys2Proof.Machine
end

