-- ==== Sys2Proof/Machine/Resets.lean ====
section
/-! DEFINITION. The reset pin: COLD_RESET and RESETN_RELEASE (R169, R56, R97, R158). -/

namespace Sys2Proof.Machine

/-- MSEL when RESETn goes low: a frame in progress ends, and the pin stays as it is (R159). -/
def Select.cut : Select → Select
  | .high => .high
  | .lowInFrame | .lowNoFrame => .lowNoFrame

/-- The part while RESETn is low: every block at its cold reset values, no frame open, every taken request forgotten (R169,
R56). The model's own record of responses and its identities go on (log 3, log 9). -/
def Part.coldReset (p : Part) : Part :=
  { Part.reset with
    resetn := .low, msel := p.msel.cut, responses := p.responses, nextSeq := p.nextSeq, nextId := p.nextId }

/-- COLD_RESET. -/
def execColdReset (s : State) : Host.Outcome State Fault Refusal :=
  s.onPart Part.coldReset

/-- RESETn goes high: the first sample sets the last levels and takes no edge (R169, R97). -/
def Part.releaseReset (v0 v1 : Level) (p : Part) : Part :=
  match p.resetn with
  | .high => p
  | .low => { (p.sample .stb0 v0).sample .stb1 v1 with resetn := .high }

/-- RESETN_RELEASE. -/
def execResetnRelease (v0 v1 : Level) (s : State) : Host.Outcome State Fault Refusal :=
  s.onPart (Part.releaseReset v0 v1)

end Sys2Proof.Machine
end

