-- ==== Sys2Proof/Machine/Dispatch.lean ====
section
/-! DEFINITION. One arm for each command (spec/opcode_table.json). -/

namespace Sys2Proof.Machine

/-- The effect of a command on everything but the queue. -/
def exec (i : Instr) (s : State) : Host.Outcome State Fault Refusal :=
  match i with
  | .requestTake r => Sys2Proof.Machine.execRequestTake r s
  | .passThroughAnswer id a => Sys2Proof.Machine.execPassThroughAnswer id a s
  | .viewReadAnswer id a => Sys2Proof.Machine.execViewReadAnswer id a s
  | .redirectedWriteAnswer id a => Sys2Proof.Machine.execRedirectedWriteAnswer id a s
  | .guardReadAnswer id a => Sys2Proof.Machine.execGuardReadAnswer id a s
  | .drainWriteAnswer id a => Sys2Proof.Machine.execDrainWriteAnswer id a s
  | .stampWriteAnswer id a => Sys2Proof.Machine.execStampWriteAnswer id a s
  | .carryReadAnswer id a => Sys2Proof.Machine.execCarryReadAnswer id a s
  | .carryWriteAnswer id a => Sys2Proof.Machine.execCarryWriteAnswer id a s
  | .lateAnswer id a => Sys2Proof.Machine.execLateAnswer id a s
  | .unmatchedAnswer id a => Sys2Proof.Machine.execUnmatchedAnswer id a s
  | .entryExpiry id => Sys2Proof.Machine.execEntryExpiry id s
  | .holdExpiry => Sys2Proof.Machine.execHoldExpiry s
  | .timebaseAdvance => Sys2Proof.Machine.execTimebaseAdvance s
  | .strobeEdge l => Sys2Proof.Machine.execStrobeEdge l s
  | .strobeLevelChange l => Sys2Proof.Machine.execStrobeLevelChange l s
  | .engineTake => Sys2Proof.Machine.execEngineTake s
  | .carryBegin => Sys2Proof.Machine.execCarryBegin s
  | .downstreamGrant => Sys2Proof.Machine.execDownstreamGrant s
  | .getStatus => Sys2Proof.Machine.execGetStatus s
  | .readWindow w => Sys2Proof.Machine.execReadWindow w s
  | .windowConfig w block => Sys2Proof.Machine.execWindowConfig w block s
  | .windowAdjust w producers expected quota policy priority target => Sys2Proof.Machine.execWindowAdjust w producers expected quota policy priority target s
  | .enable w => Sys2Proof.Machine.execEnable w s
  | .disableDrain w mode => Sys2Proof.Machine.execDisableDrain w mode s
  | .disableDiscard w => Sys2Proof.Machine.execDisableDiscard w s
  | .close w operand => Sys2Proof.Machine.execClose w operand s
  | .dropOpen w => Sys2Proof.Machine.execDropOpen w s
  | .clearFault w => Sys2Proof.Machine.execClearFault w s
  | .setStamp w value => Sys2Proof.Machine.execSetStamp w value s
  | .setFloor t v => Sys2Proof.Machine.execSetFloor t v s
  | .takeEvent t => Sys2Proof.Machine.execTakeEvent t s
  | .eventRecordShiftedOut => Sys2Proof.Machine.execEventRecordShiftedOut s
  | .setDeviceEvents priority target => Sys2Proof.Machine.execSetDeviceEvents priority target s
  | .setStrobe line polarity => Sys2Proof.Machine.execSetStrobe line polarity s
  | .setTimers divisor hold answer => Sys2Proof.Machine.execSetTimers divisor hold answer s
  | .restart => Sys2Proof.Machine.execRestart s
  | .unknownCommand code => Sys2Proof.Machine.execUnknownCommand code s
  | .frameAborted => Sys2Proof.Machine.execFrameAborted s
  | .warmResetCompletion => Sys2Proof.Machine.execWarmResetCompletion s
  | .coldReset => Sys2Proof.Machine.execColdReset s
  | .frameEnd => Sys2Proof.Machine.execFrameEnd s
  | .resetnRelease v0 v1 => Sys2Proof.Machine.execResetnRelease v0 v1 s

end Sys2Proof.Machine
end

