-- ==== Sys2Proof/Machine/Link.lean ====
section
/-! DEFINITION. The management link bit by bit: the fall of MSEL, the bits of MDI, the bytes they make, the command that a
frame's bytes spell, and what MDO shows of its answer (R159, R160, R162, Table 11.1). -/

namespace Sys2Proof.Machine

/-- The byte of eight bits, the first received most significant (section 11.1). -/
def byteOfBits (bits : List Bool) : Byte := bits.foldl (fun acc b => acc <<< 1 ||| BitVec.ofNat 8 (bit b)) 0

/-- The whole bytes that bits make; a partial byte at the end is none (R159). -/
def bytesOfBits : List Bool → List Byte
  | b0 :: b1 :: b2 :: b3 :: b4 :: b5 :: b6 :: b7 :: rest =>
    byteOfBits [b0, b1, b2, b3, b4, b5, b6, b7] :: bytesOfBits rest
  | _ => []

/-- The number of argument bytes of a command byte (Table 11.1); none where the table does not list it. -/
def argumentBytes (code : Byte) : Option Nat :=
  match code.toNat with
  | 0x01 | 0x3F => some 0
  | 0x02 | 0x12 | 0x15 | 0x16 | 0x21 => some 1
  | 0x13 | 0x20 | 0x22 | 0x23 => some 2
  | 0x14 | 0x17 | 0x24 => some 5
  | 0x11 => some 15
  | 0x10 => some 41
  | _ => none

/-- The number sent in the `n` argument bytes from byte `i`, most significant first (section 11.2). -/
def argument (args : List Byte) (i n w : Nat) : BitVec w := BitVec.ofNat w (blockNumber args i n)

/-- DISABLE's two rows by the mode byte: 1 is DISCARD; 0 is DRAIN, and any other is answered BAD_ARG (R162, log 13). -/
def disableCommand (w mode : Byte) : Instr := if mode = 1 then .disableDiscard w else .disableDrain w mode

/-- The command of a command byte with its argument bytes, in the order and the widths of R162 and Table 11.1. -/
def commandOf (code : Byte) (args : List Byte) : Instr :=
  let byte := blockByte args
  match code.toNat with
  | 0x01 => .getStatus
  | 0x02 => .readWindow (byte 0)
  | 0x10 => .windowConfig (byte 0) (args.drop 1)
  | 0x11 =>
    .windowAdjust (byte 0) (blockProducers (args.drop 1)) (byte 9) (argument args 10 2 16) (byte 12) (byte 13) (byte 14)
  | 0x12 => .enable (byte 0)
  | 0x13 => disableCommand (byte 0) (byte 1)
  | 0x14 => .close (byte 0) (argument args 1 4 32)
  | 0x15 => .dropOpen (byte 0)
  | 0x16 => .clearFault (byte 0)
  | 0x17 => .setStamp (byte 0) (argument args 1 4 32)
  | 0x20 => .setFloor (byte 0) (byte 1)
  | 0x21 => .takeEvent (byte 0)
  | 0x22 => .setDeviceEvents (byte 0) (byte 1)
  | 0x23 => .setStrobe (byte 0) (byte 1)
  | 0x24 => .setTimers (byte 0) (argument args 1 2 16) (argument args 3 2 16)
  | 0x3F => .restart
  | _ => .unknownCommand code

/-- The command taken at the last of a frame's bytes: at the last argument byte, at the command byte of a command without
arguments, and at the command byte of an unknown code (R159). None while the frame is not complete. -/
def frameCommand : List Byte → Option Instr
  | [] => none
  | code :: args => if args.length = (argumentBytes code).getD 0 then some (commandOf code args) else none

/-- MSEL goes low (R159). It is the link's act on the state, beside the commands that `step` takes (log 36); that MSEL goes
high is the row FRAME_ABORTED or FRAME_END. -/
def State.selectLow (s : State) : State := { s with part := s.part.select }

/-- The link collects the next bit: RESETn is high, a frame is open, no command of the frame has been taken, and the bits
collected do not spell one yet (R159: bytes after the take are filler). -/
def Part.collecting (p : Part) : Bool :=
  p.resetn = .high && p.msel = .lowInFrame && p.link.isNone && (frameCommand (bytesOfBits p.incoming)).isNone

/-! ## MDO (R160, R169) -/

/-- The number of bits of a taken command's answer: its status byte and its result bytes (R160). -/
def Frame.bits (f : Frame) : Nat := 8 * (f.results.length + 1)

/-- Bit `i` of the answer as it is shifted out: the status byte, then the result bytes, each most significant bit first;
low behind the last (R160). -/
def Frame.answerBit (f : Frame) (i : Nat) : Bool :=
  (((f.status.code :: f.results)[i / 8]?).getD 0).getLsbD (7 - i % 8)

/-- What MDO shows: high impedance while RESETn is low (R169) and while MSEL is high; low before the take; then the answer
bit by bit, and low behind it (R160). With MSEL low and no frame open it is low too (DEDUCED, safe: section 10.6 has MDO
driven while MSEL is low, and before a take R160 drives it low, log 44). -/
def Part.mdo (p : Part) : Mdo :=
  match p.resetn, p.msel with
  | .low, _ | .high, .high => .highImpedance
  | .high, .lowNoFrame => .low
  | .high, .lowInFrame =>
    match p.link with
    | none => .low
    | some f =>
      match f.shifted with
      | 0 => .low
      | i + 1 => if f.answerBit i then .high else .low

/-- The next bit of a taken command's answer comes out on MDO; behind the last one MDO stays low (R160). -/
def Part.shiftBit (p : Part) : Part :=
  match p.resetn, p.msel with
  | .low, _ | .high, .high | .high, .lowNoFrame => p
  | .high, .lowInFrame =>
    { p with link := p.link.map fun f => { f with shifted := min (f.shifted + 1) (f.bits + 1) } }

/-- MDO shows the last bit of the event record that a TAKE_EVENT chose (R143). -/
def Part.recordOut (p : Part) : Bool :=
  p.resetn = .high && p.msel = .lowInFrame && p.link.any fun f => f.chosen.isSome && f.shifted = f.bits

/-! ## The acts of the link -/

/-- A falling edge of MCLK: MDO changes (section 11.1). It is the link's act on the state, beside the commands that `step`
takes (log 36). -/
def State.clockFall (s : State) : State := { s with part := s.part.shiftBit }

/-- Falling edges of MCLK, one after another. -/
def State.clockFalls : Nat → State → State
  | 0, s => s
  | n + 1, s => State.clockFalls n s.clockFall

/-- A rising edge of MCLK in an open frame samples a bit of MDI. The edge that completes a frame's last byte puts the
command it spells at the tail of the queue (R159). After the take the bit is filler; the edge that ends the period of the
last bit of a chosen event record puts EVENT_RECORD_SHIFTED_OUT there (R143; DESIGN CHOICE, safe, log 45). It is the
link's act on the state, beside the commands that `step` takes (log 36). -/
def State.clockBit (b : Bool) (s : State) : State :=
  if s.part.collecting then
    let bits := s.part.incoming ++ [b]
    { pending := s.pending ++ (if bits.length % 8 = 0 then (frameCommand (bytesOfBits bits)).toList else [])
      part := { s.part with incoming := bits } }
  else if s.part.recordOut then { s with pending := s.pending ++ [.eventRecordShiftedOut] }
  else s

/-- The bits of a frame's bytes clocked in, each byte most significant bit first (section 11.1). -/
def State.clockByte (v : Byte) (s : State) : State :=
  (List.range 8).foldl (fun t i => t.clockBit (v.getLsbD (7 - i))) s

/-- A frame's bytes clocked in, in the order they are sent. -/
def State.clockBytes (bytes : List Byte) (s : State) : State := bytes.foldl (fun t v => t.clockByte v) s

end Sys2Proof.Machine
end

