-- ==== Sys2Proof/Safety.lean ====
section
/-! DEFINITION. The laws that hold at every moment, in the words the statements use: the limits of the part's queues and
tables, the line conflict law, the account of the requests the part owes an answer, the order of the hold queue, the
generations a window may have, what the engine works on, whose line a line is, the publish queue, the staging store, the
carry work and the barrier. After them come the words the statements share. -/

namespace Sys2Proof.Machine

/-- The limits of section 0.10: no queue, table, counter or class ever exceeds its size. -/
structure Part.WithinLimits (p : Part) : Prop where
  /-- The event queue never holds more than 32 entries (R138). -/
  events : p.notify.events.length ≤ Config.eventEntries
  /-- The loss counter stays at 255 once it reaches it (R139). -/
  loss : p.notify.loss ≤ Config.saturation
  /-- The hold queue never holds more than 16 entries (R124). -/
  hold : p.hold.length ≤ Config.holdEntries
  /-- The outstanding table has 32 entries (R151). -/
  table : p.down.table.length ≤ Config.tableEntries
  /-- At most 8 requests of the PUBLISH class are outstanding (R153). -/
  publish : p.down.outstanding .publish ≤ Config.publishLimit
  /-- At most 4 requests of the CARRY class are outstanding (R153). -/
  carry : p.down.outstanding .carry ≤ Config.carryLimit
  /-- At most 4 carries are in flight (R116). -/
  inFlight : p.carry.inFlight.length ≤ Config.carryLimit
  /-- The open count never passes 64 (R147). -/
  openCount : p.openCount ≤ Config.openLimit

/-- The downstream port never has two requests to the same line outstanding when either of them is a write (R154). -/
def Part.LineLaw (p : Part) : Prop := p.down.table.Pairwise fun a b => clash a.req b.req = false

/-- The FORWARDED entries that are not EXPIRED. -/
def Down.liveForwarded (d : Down) : Nat := d.outstanding .forwarded

/-- The requests in the part's waiting lists and its table. -/
def Down.requests (d : Down) : List DownReq := d.forwarded ++ d.publish ++ d.carry ++ d.table.map Entry.req

/-- The account of the requests taken and not yet answered (R147, R149): each is a hold entry, a FORWARDED request that
waits, or a FORWARDED entry that is not EXPIRED, and the open count is their number. The other clauses say what keeps the
account right: requests wait in the list of their class, a forwarded one belongs to a master, no two requests share an
identity, the hold queue is in the order of takes, and it is empty while the device is RESTARTING. -/
structure Part.Accounted (p : Part) : Prop where
  count : p.openCount = p.hold.length + p.down.forwarded.length + p.down.liveForwarded
  forwarded : ∀ r ∈ p.down.forwarded, r.kind.cls = .forwarded
  publish : ∀ r ∈ p.down.publish, r.kind.cls = .publish
  carry : ∀ r ∈ p.down.carry, r.kind.cls = .carry
  masters : ∀ r ∈ p.down.requests, r.kind.cls = .forwarded → r.origin ≠ .part
  ids : (p.down.requests.map DownReq.id).Nodup
  nextId : ∀ r ∈ p.down.requests, r.id < p.nextId
  order : p.hold.Pairwise fun a b => a.seq < b.seq
  nextSeq : ∀ e ∈ p.hold, e.seq < p.nextSeq
  restarting : p.device = .restarting → p.hold = []

/-- What R5 says of the generations a window has: a LIVE window has an OPEN generation, an OFF or HALTED window has none,
and the publishing generation is CLOSED, CHECKING, DRAINING or STAMPING. -/
structure Window.GensRight (win : Window) : Prop where
  live : win.state = .live → win.openGen ≠ none
  down : win.state = .off ∨ win.state = .halted → win.openGen = none
  opened : ∀ g, win.openGen = some g → g.state = .opened
  publishing : ∀ g, win.pubGen = some g → g.state ≠ .opened

/-- Every window's generations are right (R5). -/
def Part.GensRight (p : Part) : Prop := ∀ w, (p.win w).GensRight

/-- The generation state of an engine phase. -/
def Phase.genState : Phase → GenState
  | .checking => .checking
  | .draining => .draining
  | .stamping => .stamping

/-- The busy engine works on the publishing generation of its window, in the phase that generation is in (R77). -/
def Part.EngineRight (p : Part) : Prop :=
  ∀ k, p.engine = some k → ∃ g, (p.win k.window).pubGen = some g ∧ g.number = k.gen ∧ g.state = k.phase.genState

/-- A line lies in the claimed ranges of at most one window (R4). -/
def Part.ClaimsApart (p : Part) : Prop :=
  ∀ line v w, (p.win v).lineAtAddr line ≠ none → (p.win w).lineAtAddr line ≠ none → v = w

/-! ## Publications, the store, the carry work and the barrier -/

/-- What the rules say of the publishing generations, the publish queue and the engine. -/
structure Part.PublicationsRight (p : Part) : Prop where
  /-- An OFF or HALTED window has no publishing generation (R5). -/
  down : ∀ w, (p.win w).state = .off ∨ (p.win w).state = .halted → (p.win w).pubGen = none
  /-- No window is twice in the publish queue, which therefore holds at most 16 (R75). -/
  nodup : p.queue.Nodup
  length : p.queue.length ≤ 16
  /-- A window in the queue has a CLOSED generation (R75). -/
  queued : ∀ w ∈ p.queue, (p.win w).pubIn .closed = true
  /-- A DRAINING or STAMPING generation, and while the device is RUNNING a CHECKING one, is the engine's work (R77, R94). -/
  worked : ∀ w, (p.win w).pubIn .draining = true ∨ (p.win w).pubIn .stamping = true
    ∨ (p.win w).pubIn .checking = true ∧ p.device = .running → ∃ k, p.engine = some k ∧ k.window = w
  /-- A FLIP generation is never DRAINING (R80). -/
  flip : ∀ w, (p.win w).cfg.kind = .flip → (p.win w).pubIn .draining = false
  /-- While the device is RUNNING a close pends only behind a publishing generation (R66, R68). -/
  pending : p.device = .running → ∀ w g, (p.win w).openGen = some g → g.closePending = true → (p.win w).pubGen ≠ none
  /-- A halt pends only behind a STAMPING generation (R16). -/
  halts : ∀ w, (p.win w).haltPending = true → (p.win w).pubIn .stamping = true

/-- The requests for drain writes that wait or are outstanding and not EXPIRED (R83, R84). -/
def Down.drains (d : Down) : List DownReq :=
  (d.publish ++ (d.table.filter fun e => !e.expired).map Entry.req).filter fun r => r.kind = .drainWrite

/-- The drain writes outstanding and not EXPIRED. -/
def Down.drainsOut (d : Down) : Nat := d.table.countP fun e => e.req.kind = .drainWrite && !e.expired

/-- What the rules say of the staging store and of the drain. -/
structure Part.StoreRight (p : Part) : Prop where
  /-- The free count and the slots held make 512 (R19). -/
  total : p.freeSlots + (allWindows.map fun w => (p.win w).holding).sum = Config.slots
  /-- A generation has at most one slot for a line (R20). -/
  opened : ∀ w g, (p.win w).openGen = some g → (g.slots.map Slot.line).Nodup
  publishing : ∀ w g, (p.win w).pubGen = some g → (g.slots.map Slot.line).Nodup
  /-- A FLIP window holds no slot (R3). -/
  flip : ∀ w, (p.win w).cfg.kind = .flip → (p.win w).holding = 0
  /-- A STAMPING generation has no slot left (R85). -/
  stamping : ∀ w, (p.win w).pubIn .stamping = true → slotCount (p.win w).pubGen = 0
  /-- Without a drain there is no drain write (R83, R86). -/
  noDrain : p.drainWork = none → p.down.drains = []
  /-- A drain that is not failing has a drain write for each slot left; the list's length is the slots answered and those
  left, and the writes issued are those answered and those outstanding (R83, R84, R85). -/
  draining : ∀ k, p.drainWork = some k → k.failed = 0 →
    (p.down.drains.map DownReq.line).Perm ((slotsOf (p.win k.window).pubGen).map Slot.line)
    ∧ k.drainLength = k.okay + slotCount (p.win k.window).pubGen ∧ k.okay < k.drainLength
    ∧ k.issued = k.okay + p.down.drainsOut
  /-- A failing drain has no drain write that waits, and one outstanding at least, or it would have ended (R86, R87). -/
  failing : ∀ k, p.drainWork = some k → 0 < k.failed →
    p.down.drains.length = p.down.drainsOut ∧ 0 < p.down.drainsOut ∧ k.issued = k.okay + k.failed + p.down.drainsOut

/-- The demand entry a hold entry has: that of a CARRY entry (R119). -/
def HoldEntry.demand (e : HoldEntry) : Option Demand :=
  match e.reason, e.line with
  | .carry, .view l => some ⟨e.window, l, e.seq⟩
  | _, _ => none

/-- What the rules say of the map banks and the carry engine. -/
structure Part.CarryRight (p : Part) : Prop where
  /-- No bank is held by two windows (R10 check 7). -/
  banks : ∀ v w, (p.win v).holdsBank = true → (p.win w).holdsBank = true → (p.win v).cfg.bank = (p.win w).cfg.bank → v = w
  /-- A HALTED window has no carry work (R16). -/
  halted : ∀ w, (p.win w).state = .halted → p.carryMap w = 0
  /-- The carry order holds each window with carry work once, and no other: at most 4 (R116). -/
  nodup : p.carry.order.Nodup
  order : ∀ w, w ∈ p.carry.order ↔ p.carryMap w ≠ 0
  length : p.carry.order.length ≤ 4
  /-- The demand list stands for the CARRY hold entries, one for one (R116, R119). -/
  demand : p.carry.demand.Perm (p.hold.filterMap HoldEntry.demand)
  /-- No line has two carries in flight (R116). -/
  apart : p.carry.inFlight.Pairwise fun a b => ¬(a.window = b.window ∧ a.line = b.line)
  /-- A carry in flight is of a line with its carry bit set, and waits for a carry read or a carry write of that line that
  waits or is outstanding and not EXPIRED (R116, R118, R121). -/
  inFlight : ∀ c ∈ p.carry.inFlight, LineMap.has (p.carryMap c.window) c.line = true
    ∧ ∃ r ∈ p.down.carry ++ (p.down.table.filter fun e => !e.expired).map Entry.req,
        r.kind.cls = .carry ∧ r.id = c.request ∧ r.window = some c.window ∧ r.carryLine = some c.line
  /-- A window whose generation is eligible or CHECKING has no carry work (R76, R112). -/
  eligible : ∀ w, w ∈ p.queue ∨ (p.win w).pubIn .checking = true → p.carryMap w = 0

/-- What the rules say of the barrier of a window's OPEN generation (R61 to R66, R71). -/
structure Window.BarrierRight (win : Window) (g : Gen) : Prop where
  created : 1 ≤ g.creation
  /-- Arrivals remaining and the arrived set make the creation count, until close is reached (R61, R71). -/
  counted : 0 < g.remaining → g.remaining + MasterSet.size g.arrived = g.creation
  /-- Arrivals remaining is 0 exactly when close pends (R66). -/
  reached : g.remaining = 0 ↔ g.closePending = true

/-- What the rules say of the barrier and of the requests held. -/
structure Part.BarrierRight (p : Part) : Prop where
  /-- A window that is not OFF expects an arrival at least (R10, R11). -/
  expected : ∀ w, (p.win w).state ≠ .off → 1 ≤ (p.win w).cfg.expected
  gens : ∀ w g, (p.win w).openGen = some g → (p.win w).BarrierRight g
  /-- A held request is a write to the line its entry names, of a LIVE window, or an arrival held for CLOSE in a RETIRING
  one; one for the commit line is an arrival, held for FENCE or CLOSE (Table 8.1, R130). -/
  held : ∀ e ∈ p.hold, e.req.op = .write ∧ (p.win e.window).lineAtAddr (lineOf e.req.addr) = some e.line
    ∧ ((p.win e.window).state = .live ∨ (p.win e.window).state = .retiring ∧ e.reason = .close)
    ∧ (e.reason = .close → e.line = .commit)
    ∧ (e.line = .commit → (e.reason = .close ∨ e.reason = .fence) ∧ e.req.beats = 1 ∧ beatOf e.req.addr = 0)
  /-- A CLOSE entry is for its window's OPEN generation, which has counted its master (R61, R64). -/
  closing : ∀ e ∈ p.hold, e.reason = .close → ∃ g, (p.win e.window).openGen = some g ∧ e.gen = some g.number
    ∧ MasterSet.has g.arrived e.req.master = true
  /-- No master has two CLOSE entries in a window (R61). -/
  once : p.hold.Pairwise fun a b =>
    ¬(a.reason = .close ∧ b.reason = .close ∧ a.window = b.window ∧ a.req.master = b.req.master)

/-- All the laws together. -/
structure Part.Lawful (p : Part) : Prop where
  limits : p.WithinLimits
  lines : p.LineLaw
  accounted : p.Accounted
  gens : p.GensRight
  engine : p.EngineRight
  claims : p.ClaimsApart
  publications : p.PublicationsRight
  store : p.StoreRight
  carry : p.CarryRight
  barrier : p.BarrierRight

/-! ## Requests taken and not answered -/

/-- The master and the tag of the request that a downstream request serves. -/
def Origin.owner : Origin → Option (MasterId × Tag)
  | .upstream m t _ => some (m, t)
  | .part => none

/-- The requests the part owes an answer: those held, and the FORWARDED ones that wait or are outstanding and not EXPIRED
(R147, R149). -/
def Part.owing (p : Part) : List (MasterId × Tag) :=
  p.hold.map (fun e => (e.req.master, e.req.tag))
    ++ (p.down.forwarded
        ++ (p.down.table.filter fun e => e.req.kind.cls = .forwarded && !e.expired).map Entry.req).filterMap
      fun r => r.origin.owner

/-- The requests that the command at the front takes: the one offered, while RESETn is high and fewer than 64 are open
(R147, R169). -/
def State.taking (s : State) : List (MasterId × Tag) :=
  match s.pending with
  | .requestTake r :: _ =>
    if s.part.resetn = .high ∧ s.part.openCount < Config.openLimit then [(r.master, r.tag)] else []
  | _ => []

/-! ## Words the statements share -/

/-- RESETn is high and the device is RUNNING. -/
abbrev Part.Ready (p : Part) : Prop := p.resetn = .high ∧ p.device = .running

/-- The port can take the request and passes its alignment (R147, R148). -/
abbrev Part.CanTake (p : Part) (r : Request) : Prop := p.openCount < Config.openLimit ∧ alignedRequest r = true

/-- Nothing is left for the end of an event but the ports: the engine is busy or its queue is empty, and no offer pass is
owed. -/
abbrev Part.AtRest (p : Part) : Prop := (p.engine ≠ none ∨ p.queue = []) ∧ p.offerDue = false

/-- The request taken and answered at its take: the open count is as before. -/
def Part.answeredAtTake (p : Part) (r : Request) (st : RespStatus) (data : List Beat) : Part :=
  { p with nextSeq := p.nextSeq + 1, responses := p.responses ++ [⟨r.master, r.tag, st, data⟩] }

/-- The request taken and held at the tail of the hold queue (R124, R125). -/
def Part.heldAtTake (p : Part) (r : Request) (why : Reason) (w : WinIdx) (line : HoldLine) (gen : Option GenNum) : Part :=
  { p with
    openCount := p.openCount + 1
    nextSeq := p.nextSeq + 1
    hold := p.hold ++
      [⟨r, why, w, line, p.timers.count, p.timers.count + p.timers.holdLimit.setWidth 32, gen, p.nextSeq⟩] }

/-- The part with a command's frame open: command byte, status and result bytes, of which no bit is out yet (R160); the bits that spelled the command
are used up. -/
def Part.framed (p : Part) (code : Byte) (st : Status) (results : List Byte) : Part :=
  { p with msel := .lowInFrame, link := some ⟨code, st, results, none, 0⟩, incoming := [] }

/-- The identities of the requests are apart, and below the next one. -/
structure Part.IdsRight (p : Part) : Prop where
  apart : (p.down.requests.map DownReq.id).Nodup
  below : ∀ r ∈ p.down.requests, r.id < p.nextId

/-- The carries begun one after another for the lines of windows listed, under the identities from `id` on (R116). -/
def carriesFrom (id : Nat) : List (WinIdx × Nat) → List Carry
  | [] => []
  | (w, l) :: rest => ⟨w, l, id⟩ :: carriesFrom (id + 1) rest

/-- The carry reads placed for those carries: eight beats of the line of the front image each (R118). -/
def Part.carryReadsFrom (p : Part) (id : Nat) : List (WinIdx × Nat) → List DownReq
  | [] => []
  | (w, l) :: rest => { p.carryReadRequest w l with id := id } :: p.carryReadsFrom (id + 1) rest

/-- The number of drain writes among the requests of entries. -/
def drainsIn (es : List Entry) : Nat := es.countP fun e => e.req.kind = .drainWrite

/-- `q` is `p` after the carry engine has begun carries, those of the lines `begun`, and the arbiter has granted requests,
those of the entries `new` (R117, R151, R155). Nothing else differs: only the carries in flight, the downstream port, the
count of drain writes issued and the next identity. The outstanding table has grown by the new entries, which are not
EXPIRED, have their deadlines from now, and are of requests that waited or of the carry reads placed; the waiting lists are
what is left of them, and of the carry reads. Where the identities of the requests are apart no request is lost: the
requests waiting or outstanding are those there were, and the carry reads. -/
def AfterPorts (p q : Part) : Prop :=
  ∃ (begun : List (WinIdx × Nat)) (new : List Entry),
    let reads := p.carryReadsFrom p.nextId begun
    q = { p with
          carry := { p.carry with inFlight := p.carry.inFlight ++ carriesFrom p.nextId begun }
          down := q.down
          engine := p.engine.map fun k => { k with issued := k.issued + drainsIn new }
          nextId := p.nextId + begun.length }
    ∧ q.down.table = p.down.table ++ new
    ∧ (∀ e ∈ new, e.expired = false ∧ e.deadline = p.timers.count + p.timers.answerLimit.setWidth 32
        ∧ e.req ∈ p.down.forwarded ++ p.down.publish ++ p.down.carry ++ reads)
    ∧ q.down.forwarded.Sublist p.down.forwarded ∧ q.down.publish.Sublist p.down.publish
    ∧ q.down.carry.Sublist (p.down.carry ++ reads)
    ∧ q.down.last = (new.getLast?.map fun e => e.req.kind.cls).getD p.down.last
    ∧ (p.IdsRight → q.down.requests.Perm (p.down.requests ++ reads))

/-- The conditions of the warm reset completion hold: the device is RESTARTING, the engine idle, no carry is in flight, and no
entry of the part's own is clear of EXPIRED (R167). -/
structure Part.Settled (p : Part) : Prop where
  restarting : p.device = .restarting
  idle : p.engine = none
  inFlight : p.carry.inFlight = []
  ended : ∀ e ∈ p.down.table, e.req.origin = .part → e.expired = true

/-- `q` is what the event leaves that made `p`: the ports go on, and where the conditions of the warm reset completion then
hold, it falls in the event (R167); what it does is R168's, stated for WARM_RESET_COMPLETION. While the device is RUNNING it
never falls. -/
def AfterEvent (p q : Part) : Prop := ∃ r : Part, AfterPorts p r ∧ (r.Settled → q = r.complete) ∧ (¬r.Settled → q = r)

/-- The request waits in its class's list, or has an entry. -/
def Part.placed (p : Part) (r : DownReq) : Prop := r ∈ p.down.requests

/-- The request taken and not yet answered or handed on (R147). -/
def Part.takenOpen (p : Part) : Part := { p with openCount := p.openCount + 1, nextSeq := p.nextSeq + 1 }

/-- `q` is `p` with the FORWARDED request placed at the tail of its list, under the next identity (R152), after the ports
have gone on. -/
def HandedOn (p q : Part) (d : DownReq) : Prop :=
  d.id = p.nextId ∧ q.placed d
    ∧ AfterPorts { p with nextId := p.nextId + 1, down := { p.down with forwarded := p.down.forwarded ++ [d] } } q

/-- The view read of a request: the same beats, from a memory line, with the copies it carries and its wait (R47, R51,
R106). `reported` is the line MEMORY_ERROR would name. -/
def Part.viewReadOf (p : Part) (r : Request) (w : WinIdx) (line reported : Addr) (read : ReadPart) : DownReq :=
  { id := p.nextId, kind := .viewRead, line := line, first := beatOf r.addr, beats := r.beats, bytes := []
    origin := .upstream r.master r.tag reported, window := some w, gen := none, carryLine := none, read := read
    flipMark := 0 }

/-- The data beats are beats `first` to `first + n - 1` of a line, `value i` being line byte `i`. -/
def BeatsShow (data : List Beat) (first n : Nat) (value : Nat → Byte) : Prop :=
  data.length = n ∧ ∀ (k : Nat) (b : Beat), data[k]? = some b → ∀ j < 8, (b >>> (8 * j)).setWidth 8 = value (8 * (first + k) + j)

/-- Entry `id` has left the table. -/
def Down.without (d : Down) (id : Nat) : Down := { d with table := d.table.filter fun e => e.req.id ≠ id }

/-- The forwarded request of entry `id` ends: the entry leaves, and its master is answered (R156, R149). -/
def Part.endedFor (p : Part) (id : Nat) (m : MasterId) (t : Tag) (st : RespStatus) (data : List Beat) : Part :=
  { p with
    down := p.down.without id, openCount := p.openCount - 1, responses := p.responses ++ [⟨m, t, st, data⟩] }

/-- The waits of R48 behind a window's slot for a line have ended. -/
def Down.waitsEnded (d : Down) (w : WinIdx) (line : Addr) : Down :=
  { d with
    forwarded := d.forwarded.map fun r =>
      if r.read.waits = true ∧ r.window = some w ∧ r.line = line then
        { r with read := { r.read with waits := false } }
      else r }

/-- The notify unit after a window event at the window's priority and target (R136). -/
def Part.notified (p : Part) (w : WinIdx) (k : EventKind) : Notify :=
  p.notify.post ⟨k, (p.win w).cfg.priority, (p.win w).cfg.target, some w⟩

/-- The notify unit after MEMORY_ERROR (R135, R137). -/
def Part.notifiedError (p : Part) (m : MasterId) (line : Addr) : Notify :=
  p.notify.post ⟨.memoryError m line, p.notify.devPriority, p.notify.devTarget, none⟩

/-- The two ways in which an entry's request fails (R156, R157): memory answers ERROR by the command `answer`, and the entry
leaves the table; or its deadline is reached, and it stays in the table, EXPIRED. `c` is the command and `d` the port when
its owner hears of it. -/
def Part.endsBadly (p : Part) (e : Entry) (answer c : Instr) (d : Down) : Prop :=
  c = answer ∧ d = p.down.without e.req.id
    ∨ c = .entryExpiry e.req.id ∧ e.deadline = p.timers.count
      ∧ d = { p.down with
          table := p.down.table.map fun x => if x.req.id = e.req.id then { x with expired := true } else x }

/-- The hold entries for which `which` holds are answered in place, in the order the queue keeps, and leave it with their
demand entries (R116, R149). -/
def Part.answering (p : Part) (which : HoldEntry → Bool) (st : RespStatus) : Part :=
  { p with
    hold := p.hold.filter fun e => !which e
    carry := { p.carry with demand := p.carry.demand.filter fun d => !p.hold.any fun e => which e && e.seq = d.seq }
    openCount := p.openCount - p.hold.countP which
    responses := p.responses ++ (p.hold.filter which).map fun e => ⟨e.req.master, e.req.tag, st, []⟩ }

/-- The entry leaves the hold queue, with its demand entry (R116, R126). -/
def Part.withoutHeld (p : Part) (e : HoldEntry) : Part :=
  { p with
    hold := p.hold.filter fun x => x.seq ≠ e.seq
    carry := { p.carry with demand := p.carry.demand.filter fun d => d.seq ≠ e.seq } }

/-- The held write is given a slot of its window's OPEN generation `g` and answered OKAY (R26, R30). -/
def Part.slotGiven (p : Part) (e : HoldEntry) (g : Gen) : Part :=
  ({ p.withoutHeld e with
      freeSlots := p.freeSlots - 1, openCount := p.openCount - 1
      responses := p.responses ++ [⟨e.req.master, e.req.tag, .okay, []⟩] } : Part).setWin e.window
    { p.win e.window with
      openGen := some { g with slots := g.slots ++ [⟨lineOf e.req.addr, carriedBytes e.req⟩] }, noticeArmed := true }

/-- The held write can be given a slot of its window's OPEN generation `g`: the window is LIVE, its master is not fenced, it
carries a byte, the generation has no slot for its line, the holding is below the quota, and a slot is free (R24 to R26,
R63). -/
structure Part.Admits (p : Part) (e : HoldEntry) (g : Gen) : Prop where
  write : ∃ l, classify p.windows e.req = .stagedProducerWrite e.window l
  live : (p.win e.window).state = .live
  gen : (p.win e.window).openGen = some g
  unfenced : MasterSet.has g.arrived e.req.master = false
  carries : ∃ i < 64, byteAt (carriedBytes e.req) i ≠ none
  new : ∀ x ∈ g.slots, x.line ≠ lineOf e.req.addr
  room : (p.win e.window).holding < (p.win e.window).cfg.quota ∧ 0 < p.freeSlots

/-- The offer pass serves this entry and then ends: it is the oldest SPACE entry that is servable, and after it no slot is
free, or it is the only SPACE entry (R30). -/
structure Part.Offers (p : Part) (e : HoldEntry) (g : Gen) : Prop where
  oldest : p.hold.find? (fun x => x.reason = .space && (p.win x.window).state = .live
    && decide ((p.win x.window).holding < (p.win x.window).cfg.quota)) = some e
  last : p.freeSlots = 1 ∨ ∀ x ∈ p.hold, x.reason = .space → x.seq = e.seq
  admits : p.Admits e g

/-- The close of window `w`'s OPEN generation `g` carried out (R67): it is CLOSED with its operand, `v` where the source is
COMMIT (R69); a LIVE window has a new OPEN generation; with trigger IMMEDIATE and an empty carry map the window is in the
publish queue (R76, R112); and the CLOSE entries of `g` are answered OKAY. -/
def Part.closing (p : Part) (w : WinIdx) (g : Gen) (v : Option (BitVec 32)) : Part :=
  let win := p.win w
  let live := win.state = .live
  (({ p with
      queue := if win.cfg.trigger = .immediate ∧ p.carryMap w = 0 then p.queue ++ [w] else p.queue } : Part).setWin w
    { win with
      pubGen := some { g with
        state := .closed, closePending := false
        operand := match win.cfg.source with | .commit => v | .stamp => some win.stampCount }
      openGen :=
        if live then
          some { state := .opened, number := win.lastGen + 1, slots := [], creation := win.cfg.expected
                 remaining := win.cfg.expected, arrived := 0, closePending := false, operand := none }
        else none
      lastGen := if live then win.lastGen + 1 else win.lastGen }).answering
    (fun e => e.window = w && e.reason = .close && e.gen = some g.number) .okay

/-- Window `w`, which has no publishing generation, goes HALTED (R16, R131): its OPEN generation's slots are free, its bank
is clear, its carry work is gone, and its entries are answered ERROR HALTED. -/
def Part.halting (p : Part) (w : WinIdx) : Part :=
  let win := p.win w
  (({ p with
      freeSlots := p.freeSlots + slotCount win.openGen
      banks := if win.holdsBank then p.banks.set win.cfg.bank ⟨0, 0⟩ else p.banks
      carry :=
        { order := p.carry.order.filter fun x => x ≠ w
          demand := p.carry.demand.filter fun d => d.window ≠ w
          inFlight := p.carry.inFlight.filter fun c => c.window ≠ w }
      down := { p.down with carry := p.down.carry.filter fun r => r.window ≠ some w } } : Part).setWin w
    { win with state := .halted, openGen := none, haltPending := false, carryFailed := false }).answering
    (fun e => e.window = w) (.error .halted)

/-- The lines of a map join the carry map of window `w`'s bank, whose dirty map is clear, and a window with carry work is in
the carry order (R114, R116, R120). -/
def Part.carryFor (p : Part) (w : WinIdx) (carry : LineMap) : Part :=
  { p with
    banks := p.banks.set (p.win w).cfg.bank ⟨0, carry⟩
    carry := { p.carry with
      order := if carry = 0 ∨ w ∈ p.carry.order then p.carry.order else p.carry.order ++ [w] } }

/-- The flip of window `w` (R114): the dirty map is the carry map, the front image is the other one, and the generation
`g` is STAMPING. -/
def Part.flipped (p : Part) (w : WinIdx) (g : Gen) : Part :=
  (p.carryFor w (p.bank w).dirty).setWin w { p.win w with
    front := match (p.win w).front with | .imageA => .imageB | .imageB => .imageA
    flipMark := p.nextId, pubGen := some { g with state := .stamping } }

/-- A request of the PUBLISH class placed at the tail of its list, under the next identity (R152). -/
def Part.withPublish (p : Part) (d : DownReq) : Part :=
  { p with nextId := p.nextId + 1, down := { p.down with publish := p.down.publish ++ [d] } }

/-- The guard read for window `w`: the beat that holds the guard word (R78). -/
def Part.guardReadOf (p : Part) (w : WinIdx) (gen : GenNum) : DownReq :=
  { id := p.nextId, kind := .guardRead, line := lineOf (p.win w).cfg.guardAddr, first := beatOf (p.win w).cfg.guardAddr
    beats := 1, bytes := [], origin := .part, window := some w, gen := some gen, carryLine := none
    read := ⟨false, false, none, none, false⟩, flipMark := 0 }

/-- `d` is the stamp write for window `w`: one beat, the four bytes at the stamp address enabled and carrying the stamp count
plus one, least significant byte first (R88). -/
structure Part.StampWriteOf (p : Part) (w : WinIdx) (gen : GenNum) (d : DownReq) : Prop where
  same : d = { d with
    id := p.nextId, kind := .stampWrite, line := lineOf (p.win w).cfg.stampAddr
    first := beatOf (p.win w).cfg.stampAddr, beats := 1, origin := .part, window := some w, gen := some gen
    carryLine := none, read := ⟨false, false, none, none, false⟩, flipMark := 0 }
  bytes : ∀ i < 64, byteAt d.bytes i =
    if (p.win w).cfg.stampAddr.toNat % 64 ≤ i ∧ i < (p.win w).cfg.stampAddr.toNat % 64 + 4 then
      some ((((p.win w).stampCount + 1) >>> (8 * (i - (p.win w).cfg.stampAddr.toNat % 64))).setWidth 8)
    else none

/-- The drain writes of the slots listed, under the identities from `id` on: eight beats to the slot's line, its bytes with its
byte-valid mask as byte enables (R83). -/
def drainWritesFrom (w : WinIdx) (gen : GenNum) (id : Nat) : List Slot → List DownReq
  | [] => []
  | x :: rest =>
    { id := id, kind := .drainWrite, line := x.line, first := 0, beats := 8, bytes := x.bytes, origin := .part
      window := some w, gen := some gen, carryLine := none, read := ⟨false, false, none, none, false⟩, flipMark := 0 }
      :: drainWritesFrom w gen (id + 1) rest

/-- The generation `g` that the engine's work `k` names enters DRAINING (R83): the counts are 0, the length of its drain list is
that of its slot list, and a drain write for each slot is at the tail of the PUBLISH waiting list, in slot-list order. -/
def Part.draining (p : Part) (k : Work) (g : Gen) : Part :=
  ({ p with
      engine := some { k with
        phase := .draining, issued := 0, okay := 0, failed := 0, drainLength := g.slots.length, firstFailed := none }
      nextId := p.nextId + g.slots.length
      down := { p.down with
        publish := p.down.publish ++ drainWritesFrom k.window k.gen p.nextId g.slots } } : Part).setWin k.window
    { p.win k.window with pubGen := some { g with state := .draining } }

/-- Window `w`, which has no publishing generation, goes OFF (R15): its bank is clear, it leaves the carry order, its entries are
answered RETRY, and WINDOW_OFF is posted. A generation that a RESTART left OPEN goes with it, its slots free (log 16). -/
def Part.goingOff (p : Part) (w : WinIdx) : Part :=
  let win := p.win w
  { (({ p with
        freeSlots := p.freeSlots + slotCount win.openGen
        banks := if win.holdsBank then p.banks.set win.cfg.bank ⟨0, 0⟩ else p.banks
        carry := { p.carry with order := p.carry.order.filter fun x => x ≠ w } } : Part).setWin w
      { win with state := .off, openGen := none, carryFailed := false }).answering (fun e => e.window = w) .retry with
    notify := p.notified w .windowOff }

/-- Window `w` goes HALTED (R16) with a publishing generation that is CLOSED, or CHECKING and not the engine's work: it is
discarded, its slots are free, and the window leaves the publish queue. -/
def Part.haltingClosed (p : Part) (w : WinIdx) : Part :=
  (({ p with
      freeSlots := p.freeSlots + slotCount (p.win w).pubGen
      queue := p.queue.filter fun x => x ≠ w } : Part).setWin w { p.win w with pubGen := none }).halting w

/-- The generation that the engine's work `k` names is released with PUBLISHED, which reports `lines` (R89). -/
def Part.releasing (p : Part) (k : Work) (lines : Nat) : Part :=
  let win := p.win k.window
  ({ p with
      engine := none, notify := p.notified k.window (.published k.gen (win.stampCount + 1) lines) } : Part).setWin k.window
    { win with stampCount := win.stampCount + 1, publishCount := win.publishCount + 1, pubGen := none }

/-- A check of window `w` stops (R93): the engine is idle, and a guard read of the check that is not yet issued is removed. -/
def Part.unchecked (p : Part) (w : WinIdx) : Part :=
  let check (k : Work) : Bool := k.window = w && k.phase = .checking
  { p with
    engine := p.engine.filter fun k => !check k
    down := { p.down with
      publish := p.down.publish.filter fun r => !p.engine.any fun k => check k && k.guardRead = some r.id } }

/-- A redirected write of window `w` is left: it waits, or is outstanding and not EXPIRED (R113). -/
def Down.redirectLeft (d : Down) (w : WinIdx) : Prop :=
  (∃ x ∈ d.forwarded, x.kind = .redirectedWrite ∧ x.window = some w)
    ∨ ∃ x ∈ d.table, x.expired = false ∧ x.req.kind = .redirectedWrite ∧ x.req.window = some w

/-- The idle engine has taken window `w`, alone in the publish queue, with its generation `g` (R77). The check has begun when
its guard read, under the identity given, is placed (R78). -/
def Part.takenHead (p : Part) (w : WinIdx) (g : Gen) (guardRead : Option Nat) : Part :=
  ({ p with
      queue := []
      engine := some
        { window := w, gen := g.number, phase := .checking, issued := 0, okay := 0, failed := 0, drainLength := 0
          firstFailed := none, begun := guardRead.isSome, guardRead := guardRead } } : Part).setWin w
    { p.win w with pubGen := some { g with state := .checking } }

/-- The event that left window `w` alone in the publish queue, the engine idle, goes on to the engine's take of it (R77), where
the window has a guard operation: the guard read is placed (R78), but the check of a FLIP generation waits while a redirected
write of the window is left (R113). -/
def Part.TakesHead (p : Part) (w : WinIdx) (ended : Part → Prop) : Prop :=
  ∀ g, (p.win w).pubGen = some g → (p.win w).cfg.guardOp ≠ .none →
    ((p.win w).cfg.kind = .staged ∨ ¬p.down.redirectLeft w →
        ended ((p.takenHead w g (some p.nextId)).withPublish (p.guardReadOf w g.number)))
    ∧ ((p.win w).cfg.kind = .flip → p.down.redirectLeft w → ended (p.takenHead w g none))

/-- What follows a release with PUBLISHED (R89, R92) of the generation of a LIVE or RETIRING window that the engine's work `k`
names, with an empty publish queue and no SPACE entry: `ended` holds of what the event leaves before the ports go on. A pending
close is carried out while the device is RUNNING and stays pending while it is RESTARTING (R68, R94); it is stated with no FENCE
entry of the window. Then, with halt pending, the window goes HALTED, a generation just closed being discarded (R16); without
it, a RETIRING window with no publishing generation goes OFF when it has no carry work (R15). -/
def Part.ReleaseEnds (p : Part) (k : Work) (lines : Nat) (ended : Part → Prop) : Prop :=
  let w := k.window
  let win := p.win w
  let released := p.releasing k lines
  let kept : Prop := p.device = .restarting ∨ ∀ o, win.openGen = some o → o.closePending = false
  (win.haltPending = false → win.state = .live → kept → ended released)
  ∧ (p.device = .running → ∀ o, win.openGen = some o → o.closePending = true →
      (∀ x ∈ p.hold, x.window = w → x.reason ≠ .fence) →
      let closed := released.closing w o o.operand
      (win.haltPending = false → closed.queue = [] → ended closed)
      ∧ (win.haltPending = false → closed.queue = [w] → closed.TakesHead w ended)
      ∧ (win.haltPending = true → ended (closed.haltingClosed w)))
  ∧ (win.haltPending = true → kept → ended (released.halting w))
  ∧ (win.haltPending = false → win.state = .retiring → win.openGen = none ∨ p.device = .restarting →
      (p.carryMap w = 0 → ended (released.goingOff w)) ∧ (p.carryMap w ≠ 0 → ended released))

/-- Line `l` of window `w` is startable (R117): its carry bit is set, no carry of it is in flight, no redirected write to its
line of the back image waits, and the window's carry has not failed. -/
structure Part.Startable (p : Part) (w : WinIdx) (l : Nat) : Prop where
  carried : LineMap.has (p.carryMap w) l = true
  idle : ∀ c ∈ p.carry.inFlight, ¬(c.window = w ∧ c.line = l)
  unwritten : ∀ r ∈ p.down.forwarded, ¬(r.kind = .redirectedWrite ∧ r.line = (p.win w).backLine l)
  sound : (p.win w).carryFailed = false

/-- The line that the carry engine chooses (R117): that of the oldest demand entry whose line is startable; with none, of the
first window of the carry order that has a startable line, the lowest. -/
def Part.CarryChoice (p : Part) (w : WinIdx) (l : Nat) : Prop :=
  (∃ before d after, p.carry.demand = before ++ d :: after ∧ d.window = w ∧ d.line = l ∧ p.Startable w l
      ∧ ∀ x ∈ before, ¬p.Startable x.window x.line)
    ∨ (∀ x ∈ p.carry.demand, ¬p.Startable x.window x.line)
      ∧ ∃ before after, p.carry.order = before ++ w :: after
        ∧ (∀ v ∈ before, ∀ m < (p.win v).cfg.lines, ¬p.Startable v m)
        ∧ l < (p.win w).cfg.lines ∧ p.Startable w l ∧ ∀ m < l, ¬p.Startable w m

/-- The request is a write of memory (Table 10.3). -/
abbrev DownReq.Writes (r : DownReq) : Prop :=
  r.kind ∈ [DownKind.passWrite, .redirectedWrite, .drainWrite, .stampWrite, .carryWrite]

/-- Two requests to one line of which either is a write (R154). -/
def DownReq.Conflicts (a b : DownReq) : Prop := a.line = b.line ∧ (a.Writes ∨ b.Writes)

/-- The requests of some kinds that are outstanding and not EXPIRED (R151). -/
def Down.busy (d : Down) (kinds : List DownKind) : Nat := d.table.countP fun e => e.req.kind ∈ kinds && !e.expired

/-- A request behind the requests `older` of its waiting list is issuable (R152). -/
structure Down.Issuable (d : Down) (older : List DownReq) (r : DownReq) : Prop where
  /-- Condition 1: the line conflict check passes it (R154). -/
  conflict : ∀ e ∈ d.table, ¬e.req.Conflicts r
  /-- Condition 2: its class is below its limit, and an entry is free (R153). -/
  publish : r.kind ∈ [DownKind.guardRead, .drainWrite, .stampWrite] →
    d.busy [.guardRead, .drainWrite, .stampWrite] < 8
  carry : r.kind ∈ [DownKind.carryRead, .carryWrite] → d.busy [.carryRead, .carryWrite] < 4
  free : d.table.length < 32
  /-- Condition 3, the order of the waiting list, by which the model keeps order 1 of R110 too (log 41). -/
  order : ∀ x ∈ older, ¬x.Conflicts r
  /-- Condition 4: a view read does not wait behind a partial slot (R48). -/
  slot : r.read.waits = false
  /-- An earlier consumer view read of its line keeps a drain write back (R50). -/
  reader : r.kind = .drainWrite → ∀ x ∈ d.forwarded ++ d.table.map Entry.req,
    ¬(x.kind = .viewRead ∧ x.read.consumer = true ∧ x.window = r.window ∧ x.line = r.line ∧ x.id < r.id)
  /-- A read of the image line taken before the flip keeps a later write of the window back (R110 order 2, log 38). -/
  oldReader : r.kind = .redirectedWrite ∨ r.kind = .carryWrite → ∀ x ∈ d.forwarded ++ d.table.map Entry.req,
    ¬(x.kind = .viewRead ∧ x.read.image = true ∧ x.window = r.window ∧ x.line = r.line ∧ x.id < r.flipMark)

/-- The oldest issuable request of a waiting list (R152). -/
def Down.Oldest (d : Down) (list : List DownReq) (r : DownReq) : Prop :=
  ∃ older newer, list = older ++ r :: newer ∧ d.Issuable older r
    ∧ ∀ before x after, older = before ++ x :: after → ¬d.Issuable before x

/-- The candidate of a class (R152): of PUBLISH the head of its list, when it is issuable, of the others the oldest issuable
request. -/
def Down.Candidate (d : Down) (c : DownClass) (r : DownReq) : Prop :=
  match c with
  | .forwarded => d.Oldest d.forwarded r
  | .publish => (∃ rest, d.publish = r :: rest) ∧ d.Issuable [] r
  | .carry => d.Oldest d.carry r

/-- The request that the arbiter grants (R155): the candidate of the first class that has one, in the cyclic order FORWARDED,
PUBLISH, CARRY from the class after the last granted class (log 35). -/
def Down.Choice (d : Down) (r : DownReq) : Prop :=
  let turns : List DownClass := match d.last with
    | .forwarded => [.publish, .carry, .forwarded]
    | .publish => [.carry, .forwarded, .publish]
    | .carry => [.forwarded, .publish, .carry]
  ∃ before c after, turns = before ++ c :: after ∧ d.Candidate c r ∧ ∀ b ∈ before, ∀ x, ¬d.Candidate b x

/-- An edge of the line concerns the window (R99). -/
def Part.boundTo (p : Part) (l : StrobeLine) (w : WinIdx) : Bool :=
  decide ((p.win w).cfg.trigger = match l with | .stb0 => .strobe0 | .stb1 => .strobe1)
    && decide ((p.win w).state = .live ∨ (p.win w).state = .retiring)

/-- The window's CLOSED generation joins the publish queue at an edge of the line (Table 6.1). -/
def Part.joinsAtEdge (p : Part) (l : StrobeLine) (w : WinIdx) : Bool :=
  p.boundTo l w && (p.win w).pubIn .closed && decide (w ∉ p.queue) && decide (p.carryMap w = 0)

/-- An edge of the line finds the window's publishing generation late (Table 6.1). -/
def Part.lateAtEdge (p : Part) (l : StrobeLine) (w : WinIdx) : Bool :=
  p.boundTo l w
    && ((p.win w).pubIn .checking || (p.win w).pubIn .draining || (p.win w).pubIn .stamping
      || ((p.win w).pubIn .closed && decide (w ∉ p.queue) && decide (p.carryMap w ≠ 0)))

/-- The four bytes of a beat from the byte that an address names on, the first least significant (R78). -/
def wordAt (a : Addr) (b : Beat) : BitVec 32 := (b >>> (8 * (a.toNat % 8))).setWidth 32

/-- The guard comparison of Table 5.1. -/
def GuardHolds (op : GuardOp) (word operand : BitVec 32) : Prop :=
  match op with
  | .none => True
  | .eq => word = operand
  | .ne => word ≠ operand
  | .ltu => word.toNat < operand.toNat
  | .gtu => operand.toNat < word.toNat
  | .unlisted5 | .unlisted6 | .unlisted7 => False

end Sys2Proof.Machine

namespace Sys2Proof

/-- The command byte and the number of result bytes of the commands that a RESTARTING device answers BUSY (Table 11.1,
R160). -/
def Instr.busyFrame : Instr → Option (Byte × Nat)
  | .windowConfig _ _ => some (0x10, 0)
  | .windowAdjust _ _ _ _ _ _ _ => some (0x11, 0)
  | .enable _ => some (0x12, 0)
  | .disableDrain _ _ | .disableDiscard _ => some (0x13, 0)
  | .close _ _ => some (0x14, 0)
  | .dropOpen _ => some (0x15, 0)
  | .clearFault _ => some (0x16, 0)
  | .setStamp _ _ => some (0x17, 0)
  | .setFloor _ _ => some (0x20, 0)
  | .takeEvent _ => some (0x21, 16)
  | .setDeviceEvents _ _ => some (0x22, 0)
  | .setStrobe _ _ => some (0x23, 0)
  | .setTimers _ _ _ => some (0x24, 0)
  | .restart => some (0x3F, 0)
  | _ => none

/-- The window argument of a command. -/
def Instr.windowArg : Instr → Option Byte
  | .readWindow w | .windowConfig w _ | .windowAdjust w _ _ _ _ _ _ | .enable w | .disableDrain w _ | .disableDiscard w
  | .close w _ | .dropOpen w | .clearFault w | .setStamp w _ => some w
  | _ => none

end Sys2Proof
end

