-- ==== Sys2Proof/Certificates/Slice0/Obligations.lean ====
section
/-! DEFINITION. The statements about the UD416 that are given to the provers. Each docstring names the rules it rests
on, or the log entry where a clause is the model's choice. -/

open Sys2Proof Sys2Proof.Machine

/-! ## Steps and resets -/

/-- A step takes the command at the front of the queue and runs it with the queue's rest
(spec/95_what_each_step_holds.md), and every command answers a next state in which the queue is as it was; on an empty
queue the part idles (the model's choice, log 2). -/
def Obligations.StepTakesTheFrontCommand : Prop :=
  (∀ (s : State) (c : Instr) (rest : List Instr), s.pending = c :: rest → step s = exec c { s with pending := rest })
    ∧ (∀ (c : Instr) (s : State), ∃ p : Part, exec c s = .next { s with part := p })
    ∧ ∀ s : State, s.pending = [] → step s = .next s

/-- The values the spec gives for cold reset (Tables 1.1 and 1.2, R38, R96, R97, R105, R116, R124, R145, R158, R164, R169) are
those of State.reset, which is the part after the release, with no command waiting (the model's choice, log 8). The last levels
of the strobe lines and the stored bits of absent addresses are not among them (logs 7 and 17). From any state COLD_RESET sets
every block to these values, the last levels low (log 7), and forgets every taken request without an answer (R56); no frame is
open, the pin MSEL stays high or low as it is, and MDO is at high impedance (R159, R169); that the record of responses and the
identities go on is the model's (logs 3 and 9). While RESETn is low no command but RESETN_RELEASE does anything, except that
FRAME_ABORTED and FRAME_END move the pin; RESETN_RELEASE while it is high does nothing (log 27); at the release the first
sample gives the strobe lines their last levels and takes no edge (R169, R97). -/
def Obligations.ColdResetAndRelease : Prop :=
  (let p := State.reset.part
  (∀ w, let win := p.win w
    (win.cfg.kind = .staged ∧ win.cfg.viewBase = 0 ∧ win.cfg.lines = 1 ∧ win.cfg.imageA = 0 ∧ win.cfg.imageB = 0
      ∧ win.cfg.bank = 0 ∧ win.cfg.producers = 0 ∧ win.cfg.commitPresent = false ∧ win.cfg.expected = 1
      ∧ win.cfg.trigger = .immediate ∧ win.cfg.guardOp = .none ∧ win.cfg.source = .commit
      ∧ win.cfg.onReject = .discard ∧ win.cfg.stampPresent = false ∧ win.cfg.policy = .refuse ∧ win.cfg.quota = 64
      ∧ win.cfg.priority = 0 ∧ win.cfg.target = 0)
    ∧ win.state = .off ∧ win.front = .imageA ∧ win.openGen = none ∧ win.pubGen = none ∧ win.lastGen = 0
    ∧ win.stampCount = 0 ∧ win.publishCount = 0 ∧ win.rejectCount = 0 ∧ win.noticeArmed = true
    ∧ win.haltPending = false)
  ∧ p.resetn = .high ∧ p.device = .running ∧ p.freeSlots = 512 ∧ p.queue = [] ∧ p.engine = none
  ∧ p.stb0.polarity = .rising ∧ p.stb1.polarity = .rising
  ∧ (∀ b : Fin 4, p.banks[b] = ⟨0, 0⟩) ∧ p.carry.order = [] ∧ p.carry.demand = [] ∧ p.carry.inFlight = []
  ∧ p.hold = [] ∧ p.notify.events = [] ∧ p.notify.loss = 0 ∧ p.notify.floor0 = 0 ∧ p.notify.floor1 = 0
  ∧ p.notify.devPriority = 7 ∧ p.notify.devTarget = 0 ∧ p.notify.line 0 = false ∧ p.notify.line 1 = false
  ∧ p.openCount = 0 ∧ p.down.forwarded = [] ∧ p.down.publish = [] ∧ p.down.carry = [] ∧ p.down.table = []
  ∧ p.down.last = .carry ∧ p.timers.count = 0 ∧ p.timers.divisor = 100 ∧ p.timers.holdLimit = 1000
  ∧ p.timers.answerLimit = 250 ∧ p.msel ≠ .lowInFrame ∧ p.link = none ∧ p.incoming = []
  ∧ State.reset.pending = [])
  ∧ ∀ s : State,
    exec .coldReset s = .next { s with
      part := { Part.reset with
        resetn := .low, msel := if s.part.msel = .high then .high else .lowNoFrame, responses := s.part.responses,
        nextSeq := s.part.nextSeq, nextId := s.part.nextId } }
    ∧ (s.part.resetn = .low → s.part.mdo = .highImpedance ∧
        (∀ c : Instr, (∀ a b, c ≠ .resetnRelease a b) → c ≠ .coldReset → c ≠ .frameAborted → c ≠ .frameEnd →
          exec c s = .next s)
        ∧ (∀ c : Instr, c = .frameAborted ∨ c = .frameEnd →
          exec c s = .next { s with part := { s.part with msel := .high } })
        ∧ ∀ a b, exec (.resetnRelease a b) s = .next { s with
            part := { s.part with
              resetn := .high, stb0 := { s.part.stb0 with last := a }, stb1 := { s.part.stb1 with last := b } } })
    ∧ (s.part.resetn = .high → ∀ a b, exec (.resetnRelease a b) s = .next s)

/-! ## The management link -/

/-- The 42 result bytes of GET_STATUS carry the fields of Table 11.3 as they stand at the take, and the command changes
nothing but its frame (R161, R77, R116, R138 to R141, R147, R150, R151). Each number stands modulo the size of its
field. That all nine engine bytes of an idle engine are 0 is the model's reading (log 18), and that the bits of bytes 4, 20 and
21 that the table does not list are 0 is its choice (log 40). -/
def Obligations.GetStatusReturnsTable113 : Prop :=
  ∀ s : State, s.part.resetn = .high → ∃ bytes : List Byte,
    exec .getStatus s = .next { s with part := s.part.framed 0x01 .ok bytes }
    ∧ bytes.length = 42
    ∧ let p := s.part
      let field := blockNumber bytes
      field 0 1 = (match p.device with | .running => 0 | .restarting => 1)
      ∧ field 1 2 = p.freeSlots % 65536 ∧ field 3 1 = p.queue.length % 256
      ∧ (p.engine = none → field 4 9 = 0)
      ∧ (∀ k, p.engine = some k →
          field 4 1 = 128 + k.window.val ∧ field 5 1 = k.gen.toNat
          ∧ field 6 1 = (match k.phase with | .checking => 2 | .draining => 3 | .stamping => 4)
          ∧ field 7 2 = k.issued % 65536 ∧ field 9 2 = k.okay % 65536 ∧ field 11 2 = k.failed % 65536)
      ∧ field 13 1 = p.hold.length % 256 ∧ field 14 1 = p.notify.events.length % 256
      ∧ field 15 1 = (p.notify.events.countP fun e => e.target = 0) % 256
      ∧ field 16 1 = (p.notify.events.countP fun e => e.target = 1) % 256
      ∧ field 17 1 = p.notify.loss % 256
      ∧ field 18 1 = p.notify.floor0.toNat ∧ field 19 1 = p.notify.floor1.toNat
      ∧ field 20 1 = bit (p.notify.line 0) * 128 + bit (p.notify.line 1) * 64 + p.notify.devPriority.toNat * 2
          + p.notify.devTarget.toNat
      ∧ field 21 1 = bit (p.stb1.polarity = .falling) * 8 + bit (p.stb1.last = .high) * 4
          + bit (p.stb0.polarity = .falling) * 2 + bit (p.stb0.last = .high)
      ∧ (∀ i < 4, field (22 + i) 1 = (match p.carry.order[i]? with | some w => w.val | none => 255))
      ∧ field 26 1 = p.carry.demand.length % 256 ∧ field 27 1 = p.carry.inFlight.length % 256
      ∧ field 28 1 = p.openCount % 256
      ∧ field 29 1 = p.down.entries .forwarded % 256 ∧ field 30 1 = p.down.entries .publish % 256
      ∧ field 31 1 = p.down.entries .carry % 256
      ∧ field 32 1 = (p.down.table.countP fun e => e.expired) % 256
      ∧ field 33 4 = p.timers.count.toNat ∧ field 37 1 = p.timers.divisor.toNat
      ∧ field 38 2 = p.timers.holdLimit.toNat ∧ field 40 2 = p.timers.answerLimit.toNat

/-- READ_WINDOW(w) returns the configuration block and the live part of window w, in any window state and any device
state, and changes nothing but its frame (R2, R23, R105, Table 11.4). That the map counts of a window without a bank are 0,
and that the block keeps the bits of absent addresses, is the model's reading (log 17); that bits 7 to 5 of byte 42, which the
table does not list, are 0 is its choice (log 40). -/
def Obligations.ReadWindowReturnsTable114 : Prop :=
  ∀ (s : State) (b : Byte) (w : WinIdx), s.part.resetn = .high → b.toNat = w.val → ∃ bytes : List Byte,
    exec (.readWindow b) s = .next { s with part := s.part.framed 0x02 .ok bytes }
    ∧ bytes.length = 62
    ∧ bytes.take 40 = (s.part.win w).cfg.toBlock
    ∧ let win := s.part.win w
      let field := blockNumber bytes
      field 40 1 = (match win.state with | .off => 0 | .live => 1 | .retiring => 2 | .halted => 3)
      ∧ field 41 1 = (match win.front with | .imageA => 0 | .imageB => 1)
      ∧ field 42 1 = bit (genPending win.openGen) * 16 + bit win.pubGen.isSome * 8 + bit win.openGen.isSome * 4
          + bit win.haltPending * 2 + bit win.noticeArmed
      ∧ (∀ g, win.openGen = some g → field 43 1 = g.number.toNat ∧ field 44 1 = g.remaining % 256)
      ∧ (win.openGen = none → field 43 1 = 0 ∧ field 44 1 = 0)
      ∧ (∀ g, win.pubGen = some g → field 45 1 = g.number.toNat
          ∧ (g.state = .closed → field 46 1 = 1) ∧ (g.state = .checking → field 46 1 = 2)
          ∧ (g.state = .draining → field 46 1 = 3) ∧ (g.state = .stamping → field 46 1 = 4))
      ∧ (win.pubGen = none → field 45 1 = 0 ∧ field 46 1 = 0)
      ∧ field 47 1 = win.lastGen.toNat ∧ field 48 4 = win.stampCount.toNat ∧ field 52 2 = win.publishCount.toNat
      ∧ field 54 1 = win.rejectCount % 256 ∧ field 55 2 = win.holding % 65536
      ∧ field 57 2 = LineMap.size (s.part.dirtyMap w) win.cfg.lines % 65536
      ∧ field 59 2 = LineMap.size (s.part.carryMap w) win.cfg.lines % 65536
      ∧ field 61 1 = (s.part.carry.inFlight.countP fun c => c.window = w) % 256

/-- The window configuration block (Table 11.5, R162): what each range of its bits gives, each address counted with its unused
bits as zero; and the block is kept whole: what READ_WINDOW returns of a block is the block, whatever its forty bytes hold,
codes that Table 11.5 does not list and the bits of absent addresses among them (the latter is the model's reading, log 17). -/
def Obligations.ConfigBlockKeptWhole : Prop :=
  ∀ block : List Byte, block.length = 40 →
    (WinConfig.ofBlock block).toBlock = block
    ∧ let c := WinConfig.ofBlock block
      let n := blockNumber block
      (∀ m < 64, c.producers.getLsbD m = ((block[m / 8]?).getD 0).getLsbD (m % 8))
      ∧ c.viewBase.toNat = n 8 5 / 64 * 64 ∧ c.imageA.toNat = n 13 5 / 64 * 64 ∧ c.imageB.toNat = n 18 5 / 64 * 64
      ∧ c.commitAddr.toNat = n 23 5 / 64 * 64 ∧ c.guardAddr.toNat = n 28 5 / 4 * 4 ∧ c.stampAddr.toNat = n 33 5 / 4 * 4
      ∧ c.lines = n 8 5 % 64 * 256 + n 13 5 % 64 * 4 + n 18 5 % 4 + 1
      ∧ (match n 18 5 / 8 % 8 with
          | 0 => c.guardOp = .none | 1 => c.guardOp = .eq | 2 => c.guardOp = .ne | 3 => c.guardOp = .ltu
          | 4 => c.guardOp = .gtu
          | _ => c.guardOp = .unlisted5 ∨ c.guardOp = .unlisted6 ∨ c.guardOp = .unlisted7)
      ∧ c.source = (if n 18 5 / 4 % 2 = 1 then .stamp else .commit)
      ∧ c.kind = (if n 23 5 / 32 % 2 = 1 then .flip else .staged) ∧ c.bank.val = n 23 5 / 8 % 4
      ∧ (match n 23 5 / 2 % 4 with
          | 0 => c.trigger = .immediate | 1 => c.trigger = .strobe0 | 2 => c.trigger = .strobe1
          | _ => c.trigger = .unlisted)
      ∧ c.onReject = (if n 23 5 % 2 = 1 then .reopen else .discard)
      ∧ c.policy = (if n 28 5 / 2 % 2 = 1 then .wait else .refuse) ∧ c.target.toNat = n 28 5 % 2
      ∧ (c.commitPresent = true ↔ n 33 5 / 2 % 2 = 1) ∧ (c.stampPresent = true ↔ n 33 5 % 2 = 1)
      ∧ c.quota = n 38 2 / 128 + 1 ∧ c.expected = n 38 2 / 8 % 16 ∧ c.priority.toNat = n 38 2 % 8

/-- A frame's bytes spell one command of Table 11.1, with its arguments in the order and widths of R162, the numbers most
significant byte first, byte k of a producer set holding masters 8k to 8k + 7; a code not listed is a command by itself; a
frame with fewer bytes, or bytes after the take, spells none (R159). A frame begins when MSEL goes low, and a pin that is low
cannot go low. The bits of an open frame put its command at the tail of the queue, and no command where MSEL goes high first;
no bit is collected while no frame is open. A cold reset ends a frame in progress, and with MSEL still low the bits that follow
are no frame until MSEL goes high and low again. What moves MSEL low and clocks the bits in is the model's act beside the
commands (log 36), and a command stands for its whole frame (log 10). The status tests come before a command's own rule (R160):
an unknown code gives BAD_CODE; while the device is RESTARTING every command except GET_STATUS and READ_WINDOW gives BUSY; a
window argument outside 0 to 15 gives BAD_ARG. None changes anything but the frame, and the result bytes are zeros. A frame
that ends, before or after a take, changes nothing but the frame. MDO is at high impedance while RESETn is low (R169) and while
MSEL is high; otherwise it is low before the take (and with no frame open, log 44); after it each falling edge of MCLK puts out
the next bit of the status byte (Table 11.2) and then of the result bytes, each most significant bit first, and behind the last
it stays low (R160). The rising edge that ends the period of a chosen record's last bit brings EVENT_RECORD_SHIFTED_OUT (R143;
that edge is the model's choice, log 45). -/
def Obligations.FramesAndStatusTests : Prop :=
  (frameCommand [0x01] = some .getStatus ∧ frameCommand [0x3F] = some .restart
    ∧ (∀ w : Byte, frameCommand [0x02, w] = some (.readWindow w) ∧ frameCommand [0x12, w] = some (.enable w)
        ∧ frameCommand [0x15, w] = some (.dropOpen w) ∧ frameCommand [0x16, w] = some (.clearFault w)
        ∧ frameCommand [0x21, w] = some (.takeEvent w) ∧ frameCommand [0x13, w, 1] = some (.disableDiscard w)
        ∧ ∀ m : Byte, m ≠ 1 → frameCommand [0x13, w, m] = some (.disableDrain w m))
    ∧ (∀ a b : Byte, frameCommand [0x20, a, b] = some (.setFloor a b)
        ∧ frameCommand [0x22, a, b] = some (.setDeviceEvents a b) ∧ frameCommand [0x23, a, b] = some (.setStrobe a b))
    ∧ (∀ w b3 b2 b1 b0 : Byte, frameCommand [0x14, w, b3, b2, b1, b0] = some (.close w (b3 ++ b2 ++ b1 ++ b0))
        ∧ frameCommand [0x17, w, b3, b2, b1, b0] = some (.setStamp w (b3 ++ b2 ++ b1 ++ b0))
        ∧ frameCommand [0x24, w, b3, b2, b1, b0] = some (.setTimers w (b3 ++ b2) (b1 ++ b0)))
    ∧ (∀ (w : Byte) (block : List Byte), block.length = 40 →
        frameCommand (0x10 :: w :: block) = some (.windowConfig w block))
    ∧ (∀ (w expected q1 q0 policy priority target : Byte) (set : List Byte), set.length = 8 → ∃ producers : MasterSet,
        frameCommand (0x11 :: w :: set ++ [expected, q1, q0, policy, priority, target])
          = some (.windowAdjust w producers expected (q1 ++ q0) policy priority target)
        ∧ ∀ m < 64, producers.getLsbD m = ((set[m / 8]?).getD 0).getLsbD (m % 8))
    ∧ (∀ code : Byte, code ∉ commandCodes → frameCommand [code] = some (.unknownCommand code))
    ∧ ∀ bytes, (frameCommand bytes).isSome →
        ∀ bytes', bytes <+: bytes' ∨ bytes' <+: bytes → bytes' ≠ bytes → frameCommand bytes' = none)
  ∧ (∀ (s : State) (bytes : List Byte), s.part.resetn = .high → s.part.msel = .lowInFrame → s.part.link = none →
      s.part.incoming = [] →
      (∀ c, frameCommand bytes = some c → ∃ bits : List Bool,
        s.clockBytes bytes = { pending := s.pending ++ [c], part := { s.part with incoming := bits } }
        ∧ ∀ b, (s.clockBytes bytes).clockBit b = s.clockBytes bytes)
      ∧ ((∀ k, frameCommand (bytes.take k) = none) → ∃ bits : List Bool,
        s.clockBytes bytes = { s with part := { s.part with incoming := bits } }))
  ∧ ∀ s : State,
    (s.part.resetn = .low ∨ s.part.msel ≠ .lowInFrame → (∀ b, s.clockBit b = s) ∧ s.clockFall = s)
    ∧ (s.part.link = none → s.clockFall = s)
    ∧ (∀ f, s.part.link = some f → f.chosen = none ∨ f.shifted ≠ 8 * (f.results.length + 1) → ∀ b, s.clockBit b = s)
    ∧ (∀ f, s.part.resetn = .high → s.part.msel = .lowInFrame → s.part.link = some f → f.chosen ≠ none →
        f.shifted = 8 * (f.results.length + 1) →
        ∀ b, s.clockBit b = { s with pending := s.pending ++ [.eventRecordShiftedOut] })
    ∧ (s.part.resetn = .low ∨ s.part.msel = .high → s.part.mdo = .highImpedance)
    ∧ (s.part.resetn = .high → s.part.msel ≠ .high → s.part.msel = .lowNoFrame ∨ s.part.link = none → s.part.mdo = .low)
    ∧ (∀ f, s.part.resetn = .high → s.part.msel = .lowInFrame → s.part.link = some f → f.shifted = 0 → ∀ n,
        let status : Byte := match f.status with
          | .ok => 0x00 | .accepted => 0x01 | .badCode => 0x80 | .badArg => 0x81 | .badState => 0x82 | .busy => 0x83
        let t := State.clockFalls n s
        (∃ k : Nat, t = { s with part := { s.part with link := some { f with shifted := k } } }
          ∧ (k = 8 * (f.results.length + 1) ↔ n = 8 * (f.results.length + 1)))
        ∧ (n = 0 → t.part.mdo = .low)
        ∧ ∀ i, n = i + 1 →
          (∀ v, (status :: f.results)[i / 8]? = some v → t.part.mdo = if v.getLsbD (7 - i % 8) then .high else .low)
          ∧ ((status :: f.results)[i / 8]? = none → t.part.mdo = .low))
    ∧ (s.part.msel ≠ .high → s.selectLow = s)
    ∧ (s.part.msel = .high → s.selectLow = { s with
        part := { s.part with msel := if s.part.resetn = .high then .lowInFrame else .lowNoFrame } })
    ∧ (s.part.resetn = .high →
    (∀ code, exec (.unknownCommand code) s = .next { s with part := s.part.framed code .badCode [] })
    ∧ (∀ (c : Instr) (code : Byte) (n : Nat), c.busyFrame = some (code, n) → s.part.device = .restarting →
        exec c s = .next { s with part := s.part.framed code .busy (List.replicate n 0) })
    ∧ (∀ (c : Instr) (code w : Byte) (n : Nat), c.busyFrame = some (code, n) → c.windowArg = some w → 16 ≤ w.toNat →
        s.part.device = .running →
        exec c s = .next { s with part := s.part.framed code .badArg (List.replicate n 0) })
    ∧ (∀ w : Byte, 16 ≤ w.toNat →
        exec (.readWindow w) s = .next { s with part := s.part.framed 0x02 .badArg (List.replicate 62 0) })
    ∧ exec .frameEnd s = .next { s with part := { s.part with msel := .high, link := none, incoming := [] } }
    ∧ exec .frameAborted s = .next { s with part := { s.part with msel := .high, link := none, incoming := [] } })
    ∧ (s.part.msel ≠ .high → ∀ a b : Level, ∃ t u v : State,
        exec .coldReset s = .next t ∧ exec (.resetnRelease a b) t = .next u ∧ exec .frameAborted u = .next v
        ∧ (∀ bytes, (u.selectLow).clockBytes bytes = u)
        ∧ v.selectLow = { v with part := { v.part with msel := .lowInFrame } } ∧ v.selectLow.part.collecting = true)

/-- WINDOW_CONFIG(w, block) replaces the whole configuration part of an OFF window and no field of its live part; in any
other window state it is answered BAD_STATE and the record is left as it was (R1, R162). -/
def Obligations.WindowConfigOnlyWhileOff : Prop :=
  ∀ (s : State) (b : Byte) (w : WinIdx) (block : List Byte), s.part.Ready → b.toNat = w.val →
    ((s.part.win w).state = .off →
      exec (.windowConfig b block) s = .next { s with
        part := (s.part.setWin w { s.part.win w with cfg := WinConfig.ofBlock block }).framed 0x10 .ok [] })
    ∧ ((s.part.win w).state ≠ .off →
      exec (.windowConfig b block) s = .next { s with part := s.part.framed 0x10 .badState [] })

/-- WINDOW_ADJUST: a value out of range, or more expected arrivals than producers, is answered BAD_ARG and no field
changes; otherwise the six fields are replaced in any window state (R11, R162). The priority and target bytes are those of
R162. With no request held for SPACE nothing else changes; with one, an offer pass follows: the oldest entry that is servable,
by the new quota, is given a slot and answered OKAY (R30, R26; stated where the pass ends there). -/
def Obligations.WindowAdjustReplacesSixFields : Prop :=
  ∀ (s : State) (b : Byte) (w : WinIdx) (producers : MasterSet) (expected : Byte) (quota : BitVec 16)
    (policy priority target : Byte), s.part.Ready → b.toNat = w.val →
    let valid := 1 ≤ expected.toNat ∧ expected.toNat ≤ 15 ∧ 1 ≤ quota.toNat ∧ quota.toNat ≤ 512 ∧ policy.toNat ≤ 1
      ∧ priority.toNat ≤ 7 ∧ target.toNat ≤ 1 ∧ expected.toNat ≤ MasterSet.size producers
    let adjusted : Part := s.part.setWin w { s.part.win w with
      cfg := { (s.part.win w).cfg with
        producers := producers, expected := expected.toNat, quota := quota.toNat
        policy := if policy = 1 then .wait else .refuse
        priority := priority.setWidth 3, target := target.setWidth 1 } }
    (¬valid →
      exec (.windowAdjust b producers expected quota policy priority target) s
        = .next { s with part := s.part.framed 0x11 .badArg [] })
    ∧ (valid → s.part.offerDue = false →
      ((∀ e ∈ s.part.hold, e.reason ≠ .space) →
        exec (.windowAdjust b producers expected quota policy priority target) s
          = .next { s with part := adjusted.framed 0x11 .ok [] })
      ∧ ∀ e g, adjusted.Offers e g →
        exec (.windowAdjust b producers expected quota policy priority target) s
          = .next { s with part := (adjusted.slotGiven e g).framed 0x11 .ok [] })

/-- ENABLE(w): BAD_STATE for a window that is not OFF; BAD_ARG, and nothing changed, when a check fails; otherwise the
window is LIVE with OPEN generation 0 and, when FLIP, primed: its dirty map clear, every line of it in the carry map, and
it in the carry order (R10, R120). Only the ports go further. The checks of R10 are: sizes and listed codes (check 1, R162),
the address space (2), its own ranges apart but for a view range at the base of image A (3), its ranges apart from those of the
other windows that are not OFF and holding none of their guard or stamp words (4), its own guard and stamp words in no claimed
range (5), enough producers (6), and for FLIP on-reject REOPEN and a bank that no other holds (7). -/
def Obligations.EnableMakesLive : Prop :=
  (∀ (p : Part) (w : WinIdx),
    let c := (p.win w).cfg
    let apart (r q : ByteRange) : Prop := r.2 ≤ q.1 ∨ q.2 ≤ r.1
    let outside (a : Addr) (r : ByteRange) : Prop := a.toNat < r.1 ∨ r.2 ≤ a.toNat
    p.enableValid w = true ↔
      (1 ≤ c.lines ∧ c.lines ≤ (match c.kind with | .staged => 16384 | .flip => 4096)
        ∧ 1 ≤ c.expected ∧ c.expected ≤ 15 ∧ 1 ≤ c.quota ∧ c.quota ≤ 512
        ∧ c.trigger ≠ .unlisted ∧ c.guardOp ≠ .unlisted5 ∧ c.guardOp ≠ .unlisted6 ∧ c.guardOp ≠ .unlisted7)
      ∧ (∀ r ∈ c.claims, r.2 ≤ 0x10000000000)
      ∧ (c.kind = .flip →
          (c.viewBase = c.imageA ∨ apart c.viewRange c.rangeA) ∧ apart c.viewRange c.rangeB ∧ apart c.rangeA c.rangeB)
      ∧ (c.commitPresent = true → ∀ r ∈ c.viewRange :: c.imageRanges, apart (linesRange c.commitAddr 1) r)
      ∧ (∀ v, v ≠ w → (p.win v).state ≠ .off → ∀ r ∈ c.claims,
          (∀ q ∈ (p.win v).cfg.claims, apart r q) ∧ ∀ a ∈ (p.win v).cfg.words, outside a r)
      ∧ (∀ a ∈ c.words, (∀ r ∈ c.claims, outside a r)
          ∧ ∀ v, v ≠ w → (p.win v).state ≠ .off → ∀ r ∈ (p.win v).cfg.claims, outside a r)
      ∧ c.expected ≤ MasterSet.size c.producers
      ∧ (c.kind = .flip → c.onReject = .reopen
          ∧ ∀ v, v ≠ w → (p.win v).state ≠ .off → (p.win v).cfg.kind = .flip → (p.win v).cfg.bank ≠ c.bank))
  ∧ ∀ (s : State) (b : Byte) (w : WinIdx), s.part.Ready → b.toNat = w.val →
    ((s.part.win w).state ≠ .off → exec (.enable b) s = .next { s with part := s.part.framed 0x12 .badState [] })
    ∧ ((s.part.win w).state = .off → s.part.enableValid w = false →
        exec (.enable b) s = .next { s with part := s.part.framed 0x12 .badArg [] })
    ∧ ((s.part.win w).state = .off → s.part.enableValid w = true →
        let c := (s.part.win w).cfg
        let live : Part := s.part.setWin w { s.part.win w with
          state := .live
          openGen := some
            { state := .opened, number := 0, slots := [], creation := c.expected, remaining := c.expected, arrived := 0
              closePending := false, operand := none }
          lastGen := 0, noticeArmed := true, haltPending := false, carryFailed := false }
        ∃ q : Part, exec (.enable b) s = .next { s with part := q }
        ∧ (c.kind = .staged → AfterPorts (live.framed 0x12 .ok []) q)
        ∧ (c.kind = .flip → AfterPorts ((live.carryFor w (BitVec.ofNat 4096 (2 ^ c.lines - 1))).framed 0x12 .ok []) q
            ∧ q.dirtyMap w = 0 ∧ (∀ l, l < 4096 → LineMap.has (q.carryMap w) l = decide (l < c.lines))
            ∧ w ∈ q.carry.order))

/-- DISABLE by the state of the window (R12 to R16, R34, R130, R162, R163). A mode other than 0 and 1 is BAD_ARG (in the row of
DISABLE_DRAIN by the model's reading, log 13; of an OFF window too by its choice, log 37); an OFF window BAD_STATE; a HALTED
one goes OFF at once; DRAIN of a RETIRING one changes nothing; LIVE is ACCEPTED. DRAIN of a LIVE window answers its entries but
CLOSE ones RETRY. Then: a close that pends stays; a generation with a slot or an arrival counted, or for FLIP one that builds
and has dirty lines, is closed, or its close pends behind a publishing generation; any other is dropped, the CLOSE entries
RETRY, and the window stays RETIRING while it has a publishing generation or carry work and else goes OFF at once. DISCARD
answers every entry RETRY and drops the OPEN generation and one CLOSED or CHECKING, their slots free, of which no event tells;
a check of it stops, the engine idle and an unissued guard read removed (R93); a FLIP window's dirty lines go to its carry map;
with no carry work left and no generation that goes on, the window goes OFF at once. Stated where the event ends there: an
engine that becomes idle finds no other window in the queue. -/
def Obligations.DisableByWindowState : Prop :=
  ∀ (s : State) (b : Byte) (w : WinIdx), s.part.Ready → b.toNat = w.val →
    let p := s.part
    let win := p.win w
    let ends (c : Instr) (base : Part) : Prop := ∃ q : Part,
      exec c s = .next { s with part := q } ∧ AfterPorts (base.framed 0x13 .accepted []) q
    let drain := Instr.disableDrain b 0
    let discard := Instr.disableDiscard b
    (∀ mode : Byte, 1 < mode.toNat → exec (.disableDrain b mode) s = .next { s with part := p.framed 0x13 .badArg [] })
    ∧ (win.state = .off → exec drain s = .next { s with part := p.framed 0x13 .badState [] }
        ∧ exec discard s = .next { s with part := p.framed 0x13 .badState [] })
    ∧ (win.state = .retiring → exec drain s = .next { s with part := p.framed 0x13 .accepted [] })
    ∧ (win.state = .halted →
        let off : Part := ({ p with
          banks := if win.cfg.kind = .flip then p.banks.set win.cfg.bank ⟨0, 0⟩ else p.banks } : Part).setWin w
            { win with state := .off, carryFailed := false }
        exec drain s = .next { s with part := off.framed 0x13 .ok [] }
        ∧ exec discard s = .next { s with part := off.framed 0x13 .ok [] })
    ∧ (win.state = .live → ∃ q : Part,
        exec drain s = .next { s with part := q } ∧ q.link = some ⟨0x13, .accepted, [], none, 0⟩)
    ∧ (win.state = .live ∨ win.state = .retiring → ∃ q : Part,
        exec discard s = .next { s with part := q } ∧ q.link = some ⟨0x13, .accepted, [], none, 0⟩)
    ∧ (∀ g, win.state = .live → win.openGen = some g → p.Accounted → p.AtRest →
        let forced : Prop := win.cfg.kind = .staged ∧ (g.slots ≠ [] ∨ g.arrived ≠ 0)
          ∨ win.cfg.kind = .flip ∧ win.pubUnseen = false ∧ p.dirtyMap w ≠ 0
        let retried (win' : Window) : Part :=
          (p.setWin w win').answering (fun e => e.window = w && e.reason ≠ .close) .retry
        (g.closePending = true → win.pubGen ≠ none → ends drain (retried { win with state := .retiring }))
        ∧ (g.closePending = false → forced → win.pubGen ≠ none →
            ends drain (retried { win with
              state := .retiring
              openGen := some { g with
                remaining := 0, closePending := true
                operand := match win.cfg.source with | .commit => some 0 | .stamp => g.operand } }))
        ∧ (g.closePending = false → forced → win.pubGen = none → p.engine ≠ none → w ∉ p.queue →
            ends drain ((retried { win with state := .retiring }).closing w { g with remaining := 0 } (some 0)))
        ∧ (g.closePending = false → ¬forced → g.slots = [] →
            let dropped (state : WinState) : Part :=
              (retried { win with
                state := state, openGen := none
                carryFailed := if state = .off then false else win.carryFailed }).answering (fun e => e.window = w) .retry
            (win.pubGen ≠ none ∨ p.carryMap w ≠ 0 → ends drain (dropped .retiring))
            ∧ (win.pubGen = none → p.carryMap w = 0 → win.haltPending = false →
                let off := dropped .off
                ends drain { off with
                  banks := if win.cfg.kind = .flip then p.banks.set win.cfg.bank ⟨0, 0⟩ else p.banks
                  carry := { off.carry with order := p.carry.order.filter fun x => x ≠ w }
                  notify := p.notified w .windowOff })))
    ∧ (win.state = .live ∨ win.state = .retiring → p.Accounted → p.offerDue = false →
        (∀ e ∈ p.hold, e.reason = .space → e.window = w) →
        let unseen := win.pubUnseen
        let stopped := if unseen then p.unchecked w else p
        (stopped.engine = none → ∀ x ∈ p.queue, unseen = true ∧ x = w) →
        let gone (state : WinState) : Part :=
          (({ stopped with
              freeSlots := p.freeSlots + slotCount win.openGen + if unseen then slotCount win.pubGen else 0
              queue := if unseen then p.queue.filter fun x => x ≠ w else p.queue } : Part).setWin w
            { win with
              state := state, openGen := none, pubGen := if unseen then none else win.pubGen
              carryFailed := if state = .off then false else win.carryFailed }).answering (fun e => e.window = w) .retry
        let owed : Prop := win.cfg.kind = .flip ∧ (p.bank w).carry ||| (p.bank w).dirty ≠ 0
        (¬owed → win.pubGen = none ∨ unseen = true → win.haltPending = false →
          ends discard { gone .off with
            banks := if win.cfg.kind = .flip then p.banks.set win.cfg.bank ⟨0, 0⟩ else p.banks
            carry := { (gone .off).carry with order := p.carry.order.filter fun x => x ≠ w }
            notify := p.notified w .windowOff })
        ∧ (¬owed → win.pubGen ≠ none → unseen = false → ends discard (gone .retiring))
        ∧ (owed → ends discard ((gone .retiring).carryFor w ((p.bank w).carry ||| (p.bank w).dirty))))

/-- CLOSE(w, operand): BAD_STATE unless the window is LIVE; OK and nothing changed when close is already pending; with a
publishing generation the close pends, arrivals remaining 0 and the operand recorded when the source is COMMIT (R72, R66).
Without one the close is carried out at once (R67, R69): the generation is CLOSED with its operand, a new OPEN generation
follows, the CLOSE entries are answered OKAY, with trigger IMMEDIATE and an empty carry map the window joins the publish queue,
and the FENCE entries are released. Stated for none; for one that is a write, which the new generation gives a slot; and for
one that is an arrival, which the new generation counts and holds for CLOSE at its place, its close pending when it is the
last. There the engine is busy, so that the event ends there. -/
def Obligations.CloseCommandByState : Prop :=
  ∀ (s : State) (b : Byte) (w : WinIdx) (v : BitVec 32), s.part.Ready → b.toNat = w.val →
    let p := s.part
    let win := p.win w
    (win.state ≠ .live → exec (.close b v) s = .next { s with part := p.framed 0x14 .badState [] })
    ∧ (∀ g, win.state = .live → win.openGen = some g →
        let ends (base : Part) : Prop := ∃ q : Part,
          exec (.close b v) s = .next { s with part := q } ∧ AfterPorts (base.framed 0x14 .ok []) q
        (g.closePending = true → exec (.close b v) s = .next { s with part := p.framed 0x14 .ok [] })
        ∧ (g.closePending = false → win.pubGen ≠ none → p.AtRest →
            ends (p.setWin w { win with
              openGen := some { g with
                remaining := 0, closePending := true
                operand := match win.cfg.source with | .commit => some v | .stamp => g.operand } }))
        ∧ (g.closePending = false → win.pubGen = none → p.Accounted → p.engine ≠ none → p.offerDue = false → w ∉ p.queue →
            let closed := p.closing w { g with remaining := 0 } (some v)
            let fenced := p.hold.filter fun e => e.window = w && e.reason = .fence
            (fenced = [] → ends closed)
            ∧ ∀ (e : HoldEntry) (o : Gen), fenced = [e] → (closed.win w).openGen = some o →
                (closed.Admits e o → ends (closed.slotGiven e o))
                ∧ (classify p.windows e.req = .commitArrival w → MasterSet.has win.cfg.producers e.req.master = true →
                    2 ≤ o.remaining ∨ o.remaining = 1 →
                    ends (({ closed with
                        hold := closed.hold.map fun x =>
                          if x.seq = e.seq then { x with reason := .close, line := .commit, gen := some o.number } else x
                        carry := { closed.carry with
                          demand := closed.carry.demand.filter fun d => d.seq ≠ e.seq } } : Part).setWin w
                      { closed.win w with
                        openGen := some
                          (if o.remaining = 1 then
                            { o with
                              remaining := 0, arrived := MasterSet.add 0 e.req.master, closePending := true
                              operand := match win.cfg.source with
                                | .commit => some (arrivalValue e.req)
                                | .stamp => none }
                          else
                            { o with
                              remaining := o.remaining - 1, arrived := MasterSet.add 0 e.req.master }) }))))

/-- DROP_OPEN(w): BAD_STATE for a RETIRING window (R163); BAD_ARG for any other FLIP window, before its state is looked at
(the model's reading of R35, log 14); BAD_STATE for a STAGED window that is not LIVE; otherwise the slots of the OPEN
generation are freed, its slot list is empty, arrivals remaining is its creation count, its arrived set is empty and close
pending is clear, the window's CLOSE and FENCE entries are answered RETRY (R35, R132), and, with no request held for SPACE,
nothing else changes; with one, an offer pass follows (R32, R30; stated where the pass ends there). -/
def Obligations.DropOpenEmptiesTheGeneration : Prop :=
  ∀ (s : State) (b : Byte) (w : WinIdx), s.part.Ready → b.toNat = w.val →
    ((s.part.win w).state = .retiring → exec (.dropOpen b) s = .next { s with part := s.part.framed 0x15 .badState [] })
    ∧ ((s.part.win w).cfg.kind = .flip → (s.part.win w).state ≠ .retiring →
        exec (.dropOpen b) s = .next { s with part := s.part.framed 0x15 .badArg [] })
    ∧ ((s.part.win w).cfg.kind = .staged → (s.part.win w).state ≠ .live →
        exec (.dropOpen b) s = .next { s with part := s.part.framed 0x15 .badState [] })
    ∧ (∀ g, (s.part.win w).cfg.kind = .staged → (s.part.win w).state = .live → (s.part.win w).openGen = some g →
        s.part.offerDue = false → s.part.Accounted →
        let emptied : Part :=
          (({ s.part with freeSlots := s.part.freeSlots + g.slots.length } : Part).setWin w { s.part.win w with
            openGen := some { g with
              slots := [], remaining := g.creation, arrived := 0, closePending := false } }).answering
            (fun e => e.window = w && (e.reason = .close || e.reason = .fence)) .retry
        ((∀ e ∈ s.part.hold, e.reason ≠ .space) →
          exec (.dropOpen b) s = .next { s with part := emptied.framed 0x15 .ok [] })
        ∧ ∀ e o, g.slots ≠ [] → emptied.Offers e o →
          exec (.dropOpen b) s = .next { s with part := (emptied.slotGiven e o).framed 0x15 .ok [] })

/-- CLEAR_FAULT(w): BAD_STATE unless the window is HALTED; otherwise it is LIVE with a new OPEN generation, numbered one
more than the last, modulo 256, and, when FLIP, primed; the counters and the front image are kept (R17, R120). Only the ports
go further. -/
def Obligations.ClearFaultMakesLive : Prop :=
  ∀ (s : State) (b : Byte) (w : WinIdx), s.part.Ready → b.toNat = w.val →
    ((s.part.win w).state ≠ .halted → exec (.clearFault b) s = .next { s with part := s.part.framed 0x16 .badState [] })
    ∧ ((s.part.win w).state = .halted →
        let c := (s.part.win w).cfg
        let live : Part := s.part.setWin w { s.part.win w with
          state := .live
          openGen := some
            { state := .opened, number := (s.part.win w).lastGen + 1, slots := [], creation := c.expected
              remaining := c.expected, arrived := 0, closePending := false, operand := none }
          lastGen := (s.part.win w).lastGen + 1, noticeArmed := true, haltPending := false, carryFailed := false }
        ∃ q : Part, exec (.clearFault b) s = .next { s with part := q }
        ∧ (c.kind = .staged → AfterPorts (live.framed 0x16 .ok []) q)
        ∧ (c.kind = .flip → AfterPorts ((live.carryFor w (BitVec.ofNat 4096 (2 ^ c.lines - 1))).framed 0x16 .ok []) q
            ∧ q.dirtyMap w = 0 ∧ (∀ l, l < 4096 → LineMap.has (q.carryMap w) l = decide (l < c.lines))
            ∧ (1 ≤ c.lines → w ∈ q.carry.order)))

/-- SET_STAMP(w, value) sets the stamp count, in any window state, while the window has no publishing generation; otherwise
it is answered BAD_STATE and the count is unchanged (R6). -/
def Obligations.SetStampWithoutPublication : Prop :=
  ∀ (s : State) (b : Byte) (w : WinIdx) (v : BitVec 32), s.part.Ready → b.toNat = w.val →
    ((s.part.win w).pubGen = none →
      exec (.setStamp b v) s = .next { s with
        part := (s.part.setWin w { s.part.win w with stampCount := v }).framed 0x17 .ok [] })
    ∧ ((s.part.win w).pubGen ≠ none →
      exec (.setStamp b v) s = .next { s with part := s.part.framed 0x17 .badState [] })

/-- SET_FLOOR(t, v) (R140): OK, BAD_ARG and BUSY; the cold reset value; the warm reset keeps both floors; GET_STATUS returns
them; a floor of 7 keeps its line deasserted. -/
def Obligations.SetFloor : Prop :=
  (∀ (s : State) (t v : Byte), s.part.resetn = .high →
    (s.part.device = .running → v.toNat ≤ 7 →
      (t = 0 → exec (.setFloor t v) s = .next { s with
        part := { s.part with notify := { s.part.notify with floor0 := v.setWidth 3 } }.framed 0x20 .ok [] })
      ∧ (t = 1 → exec (.setFloor t v) s = .next { s with
        part := { s.part with notify := { s.part.notify with floor1 := v.setWidth 3 } }.framed 0x20 .ok [] }))
    ∧ (s.part.device = .running → 1 < t.toNat ∨ 7 < v.toNat →
      exec (.setFloor t v) s = .next { s with part := s.part.framed 0x20 .badArg [] })
    ∧ (s.part.device = .restarting → exec (.setFloor t v) s = .next { s with part := s.part.framed 0x20 .busy [] }))
  ∧ Part.reset.notify.floor0 = 0 ∧ Part.reset.notify.floor1 = 0
  ∧ (∀ p : Part, p.complete.notify.floor0 = p.notify.floor0 ∧ p.complete.notify.floor1 = p.notify.floor1)
  ∧ (∀ p : Part, blockNumber p.statusBytes 18 1 = p.notify.floor0.toNat
      ∧ blockNumber p.statusBytes 19 1 = p.notify.floor1.toNat)
  ∧ ∀ (n : Notify) (t : Target), n.floor t = 7 → n.line t = false

/-- SET_DEVICE_EVENTS(priority, target) (R137): OK, BAD_ARG and BUSY; device events take the setting as it stands when they
are posted; the cold reset value; the warm reset keeps the setting and posts RESTARTED at it; GET_STATUS returns it. -/
def Obligations.SetDeviceEvents : Prop :=
  (∀ (s : State) (a t : Byte), s.part.resetn = .high →
    (s.part.device = .running → a.toNat ≤ 7 → t.toNat ≤ 1 →
      exec (.setDeviceEvents a t) s = .next { s with
        part := { s.part with
          notify := { s.part.notify with devPriority := a.setWidth 3, devTarget := t.setWidth 1 } }.framed 0x22 .ok [] })
    ∧ (s.part.device = .running → 7 < a.toNat ∨ 1 < t.toNat →
      exec (.setDeviceEvents a t) s = .next { s with part := s.part.framed 0x22 .badArg [] })
    ∧ (s.part.device = .restarting →
      exec (.setDeviceEvents a t) s = .next { s with part := s.part.framed 0x22 .busy [] }))
  ∧ (∀ (p : Part) (k : EventKind),
      p.postDevice k = { p with notify := p.notify.post ⟨k, p.notify.devPriority, p.notify.devTarget, none⟩ })
  ∧ Part.reset.notify.devPriority = 7 ∧ Part.reset.notify.devTarget = 0
  ∧ (∀ p : Part, p.complete.notify.devPriority = p.notify.devPriority
      ∧ p.complete.notify.devTarget = p.notify.devTarget
      ∧ p.complete.notify.events = [⟨.restarted, p.notify.devPriority, p.notify.devTarget, none⟩])
  ∧ ∀ p : Part, blockNumber p.statusBytes 20 1 % 16 = p.notify.devPriority.toNat * 2 + p.notify.devTarget.toNat

/-- SET_STROBE(s, polarity) (R98): the polarity of that line alone changes, its last level does not and no edge is taken;
BAD_ARG and BUSY change nothing; a sample taken afterwards is judged by the new polarity. -/
def Obligations.SetStrobe : Prop :=
  (∀ (s : State) (n a : Byte), s.part.resetn = .high →
    (s.part.device = .running → a.toNat ≤ 1 →
      (n = 0 → exec (.setStrobe n a) s = .next { s with
        part := { s.part with
          stb0 := { s.part.stb0 with polarity := if a = 0 then .rising else .falling } }.framed 0x23 .ok [] })
      ∧ (n = 1 → exec (.setStrobe n a) s = .next { s with
        part := { s.part with
          stb1 := { s.part.stb1 with polarity := if a = 0 then .rising else .falling } }.framed 0x23 .ok [] }))
    ∧ (s.part.device = .running → 1 < n.toNat ∨ 1 < a.toNat →
      exec (.setStrobe n a) s = .next { s with part := s.part.framed 0x23 .badArg [] })
    ∧ (s.part.device = .restarting → exec (.setStrobe n a) s = .next { s with part := s.part.framed 0x23 .busy [] }))
  ∧ ∀ (s : State) (l : StrobeLine), s.part.resetn = .high →
      ((s.part.strobe l).polarity = .rising ∧ (s.part.strobe l).last = .high
        ∨ (s.part.strobe l).polarity = .falling ∧ (s.part.strobe l).last = .low) →
      exec (.strobeEdge l) s = .next s

/-- SET_TIMERS(divisor, hold limit, answer limit) (R164): all three replaced together, or BAD_ARG and none changed; the
divisor applies from the next advance, the hold limit to requests taken afterwards, the answer limit to requests issued
afterwards; the cold reset values; the warm reset keeps all three. -/
def Obligations.SetTimers : Prop :=
  (∀ (s : State) (d : Byte) (h a : BitVec 16), s.part.Ready →
    (1 ≤ d.toNat ∧ d.toNat ≤ 250 ∧ 1 ≤ h.toNat ∧ 1 ≤ a.toNat →
      exec (.setTimers d h a) s = .next { s with
        part := { s.part with
          timers := { s.part.timers with divisor := d, holdLimit := h, answerLimit := a } }.framed 0x24 .ok [] })
    ∧ (¬(1 ≤ d.toNat ∧ d.toNat ≤ 250 ∧ 1 ≤ h.toNat ∧ 1 ≤ a.toNat) →
      exec (.setTimers d h a) s = .next { s with part := s.part.framed 0x24 .badArg [] }))
  ∧ (∀ p : Part, p.advance.timers = { p.timers with
      count := p.timers.count + 1, activeDivisor := p.timers.divisor })
  ∧ (∀ (p : Part) (r : Request), (p.taken r).deadline = p.timers.count + p.timers.holdLimit.setWidth 32)
  ∧ (∀ (p : Part) (r : DownReq), ∃ e : Entry, (p.issue r).down.table = p.down.table ++ [e]
      ∧ e.req = r ∧ e.deadline = p.timers.count + p.timers.answerLimit.setWidth 32 ∧ e.expired = false)
  ∧ Part.reset.timers.divisor = 100 ∧ Part.reset.timers.holdLimit = 1000 ∧ Part.reset.timers.answerLimit = 250
  ∧ ∀ p : Part, p.complete.timers = p.timers

/-! ## The notify unit -/

/-- Notify line t is asserted exactly when the queue holds a record for t whose priority is above floor t (R141): a dropped
record and a record of priority 0 leave both lines as they were, and GET_STATUS returns both levels. -/
def Obligations.NotifyLineLevel : Prop :=
  (∀ (n : Notify) (t : Target), n.line t = true ↔ ∃ e ∈ n.events, e.target = t ∧ n.floor t < e.priority)
  ∧ (∀ (n : Notify) (e : Event) (t : Target), 32 ≤ n.events.length ∨ e.priority = 0 → (n.post e).line t = n.line t)
  ∧ ∀ p : Part, blockNumber p.statusBytes 20 1 / 64 = bit (p.notify.line 0) * 2 + bit (p.notify.line 1)

/-- Posting: a record is placed at the tail, or, when the queue holds 32 entries, dropped with the loss counter advanced,
which stays at 255 (R138, R139). Only the queue or the loss counter changes. -/
def Obligations.PostOrDrop : Prop :=
  ∀ (n : Notify) (e : Event),
    (n.events.length < 32 → n.post e = { n with events := n.events ++ [e] })
    ∧ (32 ≤ n.events.length → n.loss < 255 → n.post e = { n with loss := n.loss + 1 })
    ∧ (32 ≤ n.events.length → n.loss = 255 → n.post e = n)

/-- TAKE_EVENT(t) (R142): BAD_ARG and BUSY choose no record; otherwise the chosen record is the oldest of the highest
priority among those for t, silent ones included, and it stays in the queue; with no record for t a NONE record is returned.
Both carry the loss counter. The priority and the target of a NONE record, which the rule leaves open, are not stated (the
model's are log 34); that its other bits beside them in bytes 1 and 2, the window bits among them, are 0 is the model's choice
(log 39). -/
def Obligations.TakeEventChooses : Prop :=
  ∀ (s : State) (t : Byte), s.part.resetn = .high →
    (s.part.device = .restarting →
      exec (.takeEvent t) s = .next { s with part := s.part.framed 0x21 .busy (List.replicate 16 0) })
    ∧ (s.part.device = .running → 1 < t.toNat →
      exec (.takeEvent t) s = .next { s with part := s.part.framed 0x21 .badArg (List.replicate 16 0) })
    ∧ (s.part.device = .running → t.toNat ≤ 1 → (∀ e ∈ s.part.notify.events, e.target ≠ t.setWidth 1) →
      ∃ (priority : Priority) (target : Target), exec (.takeEvent t) s = .next { s with
        part := s.part.framed 0x21 .ok
          ([0, priority.setWidth 8, target.setWidth 8, BitVec.ofNat 8 s.part.notify.loss] ++ List.replicate 12 0) })
    ∧ (s.part.device = .running → t.toNat ≤ 1 → (∃ e ∈ s.part.notify.events, e.target = t.setWidth 1) →
      ∃ (i : Nat) (e : Event), s.part.notify.events[i]? = some e ∧ e.target = t.setWidth 1
        ∧ (∀ (j : Nat) (f : Event), s.part.notify.events[j]? = some f → f.target = t.setWidth 1 →
            f.priority ≤ e.priority ∧ (f.priority = e.priority → i ≤ j))
        ∧ exec (.takeEvent t) s = .next { s with
            part := { s.part with
              msel := .lowInFrame, link := some ⟨0x21, .ok, e.bytes s.part.notify.loss, some i, 0⟩, incoming := [] } })

/-- The event record: sixteen bytes, the kind's code, the window field with the priority, the target, the loss counter (Table
11.6), and the details of every kind (Table 11.7), every byte that the table does not list being 0. Each number stands modulo
the size of its field. That the window bits without a window and the bits of byte 2 above the target are 0 is the model's
choice (log 39). -/
def Obligations.EventRecordLayout : Prop :=
  ∀ (e : Event) (loss : Nat),
    let zeros (i : Nat) : Prop := (e.bytes loss).drop i = List.replicate (16 - i) 0
    (e.bytes loss).length = 16
    ∧ (e.bytes loss)[2]? = some (BitVec.ofNat 8 e.target.toNat) ∧ (e.bytes loss)[3]? = some (BitVec.ofNat 8 loss)
    ∧ (e.bytes loss)[1]? = some (BitVec.ofNat 8
        ((match e.window with | none => 0 | some w => 128 + w.val * 8) + e.priority.toNat))
    ∧ (match e.kind with
       | .published g stamp lines =>
         (e.bytes loss)[0]? = some 0x01 ∧ (e.bytes loss)[4]? = some g
           ∧ blockNumber (e.bytes loss) 5 4 = stamp.toNat ∧ blockNumber (e.bytes loss) 9 2 = lines % 65536 ∧ zeros 11
       | .rejected g why act =>
         (e.bytes loss)[0]? = some 0x02 ∧ (e.bytes loss)[4]? = some g
           ∧ (e.bytes loss)[5]? = some (match why with | .guardFalse => 1 | .guardError => 2)
           ∧ (e.bytes loss)[6]? = some (match act with | .discarded => 1 | .reopened => 2) ∧ zeros 7
       | .torn g line written failed abandoned stampFailed =>
         (e.bytes loss)[0]? = some 0x03 ∧ (e.bytes loss)[4]? = some g ∧ blockNumber (e.bytes loss) 5 5 = line.toNat
           ∧ (written < 32768 → blockNumber (e.bytes loss) 10 2 = bit stampFailed * 32768 + written)
           ∧ blockNumber (e.bytes loss) 12 2 = failed % 65536 ∧ blockNumber (e.bytes loss) 14 2 = abandoned % 65536
       | .late l => (e.bytes loss)[0]? = some 0x04 ∧ (e.bytes loss)[4]? = some (match l with | .stb0 => 0 | .stb1 => 1)
           ∧ zeros 5
       | .exhausted m line o =>
         (e.bytes loss)[0]? = some 0x05 ∧ (e.bytes loss)[4]? = some (m.setWidth 8)
           ∧ blockNumber (e.bytes loss) 5 5 = line.toNat
           ∧ (e.bytes loss)[10]? = some (match o with | .held => 1 | .refused => 2) ∧ zeros 11
       | .holdExpired m why =>
         (e.bytes loss)[0]? = some 0x06 ∧ (e.bytes loss)[4]? = some (m.setWidth 8)
           ∧ (e.bytes loss)[5]? = some (match why with
               | .fence => 1 | .close => 2 | .space => 3 | .flipWait => 4 | .carry => 5) ∧ zeros 6
       | .refused m line =>
         (e.bytes loss)[0]? = some 0x07 ∧ (e.bytes loss)[4]? = some (m.setWidth 8)
           ∧ blockNumber (e.bytes loss) 5 5 = line.toNat ∧ zeros 10
       | .carryFailed line =>
         (e.bytes loss)[0]? = some 0x08 ∧ (e.bytes loss)[4]? = some 0 ∧ blockNumber (e.bytes loss) 5 5 = line.toNat ∧ zeros 10
       | .windowOff => (e.bytes loss)[0]? = some 0x09 ∧ zeros 4
       | .memoryError m line =>
         (e.bytes loss)[0]? = some 0x0A ∧ (e.bytes loss)[4]? = some (m.setWidth 8)
           ∧ blockNumber (e.bytes loss) 5 5 = line.toNat ∧ zeros 10
       | .restarted => (e.bytes loss)[0]? = some 0x0B ∧ zeros 4)

/-- The chosen record leaves the queue when its last byte has been shifted out, the records behind it keeping their order; a
NONE record removes nothing; a frame that ends before then leaves the queue as it is (R143). -/
def Obligations.ChosenRecordLeaves : Prop :=
  ∀ s : State, s.part.resetn = .high →
    (∀ f i, s.part.link = some f → f.chosen = some i →
      exec .eventRecordShiftedOut s = .next { s with
        part := { s.part with
          notify := { s.part.notify with events := s.part.notify.events.eraseIdx i }
          link := some { f with chosen := none } } })
    ∧ ((∀ f, s.part.link = some f → f.chosen = none) → exec .eventRecordShiftedOut s = .next s)
    ∧ exec .frameEnd s = .next { s with part := { s.part with msel := .high, link := none, incoming := [] } }

/-! ## RESTART -/

/-- RESTART while the device is RUNNING always completes, and is ACCEPTED (R165): the device is RESTARTING; every hold entry
is answered RETRY in the order the queue keeps, and the queue and the demand list are empty (R133); a CHECKING generation is
abandoned, the engine idle and its guard read, if not yet issued, removed (R94); the carry reads not yet issued are removed and
their carries no longer in flight (R123); the rest stands, and the ports go on. When then the engine is idle, no carry is in
flight and no entry of the part's own is clear of EXPIRED, the completion falls in the same event (R167), with RESTARTED the one
record and every window OFF (R168); otherwise the device stays RESTARTING. Stated for parts whose requests are accounted for,
and demand entries that each stand for a hold entry. -/
def Obligations.RestartAnswersTheHoldQueue : Prop :=
  ∀ s : State, s.part.Ready → s.part.Accounted → (∀ d ∈ s.part.carry.demand, ∃ e ∈ s.part.hold, e.seq = d.seq) →
    let p := s.part
    let checks (k : Work) : Bool := k.phase = .checking
    let stopped : Part :=
      { p with
        device := .restarting, offerDue := false, hold := [], openCount := p.openCount - p.hold.length
        responses := p.responses ++ p.hold.map fun e => ⟨e.req.master, e.req.tag, .retry, []⟩
        engine := p.engine.filter fun k => !checks k
        carry := { p.carry with
          demand := []
          inFlight := p.carry.inFlight.filter fun c => ∀ r ∈ p.down.carry, r.kind = .carryRead → r.id ≠ c.request }
        down := { p.down with
          publish := p.down.publish.filter fun r => ∀ k, p.engine = some k → checks k = true → some r.id ≠ k.guardRead
          carry := p.down.carry.filter fun r => r.kind ≠ .carryRead } }
    let settled (r : Part) : Prop := r.engine = none ∧ r.carry.inFlight = []
      ∧ ∀ e ∈ r.down.table, e.req.origin = .part → e.expired = true
    ∃ q r : Part, exec .restart s = .next { s with part := q }
      ∧ AfterPorts stopped r ∧ r.carry = stopped.carry
      ∧ (settled r → q = r.complete.framed 0x3F .accepted [])
      ∧ (¬settled r → q = r.framed 0x3F .accepted [])
      ∧ (settled stopped → (∀ x ∈ stopped.down.publish ++ stopped.down.carry, x.origin ≠ .part) → settled r)
      ∧ (¬settled stopped → ¬settled r)
      ∧ q.responses = p.responses ++ p.hold.map (fun e => ⟨e.req.master, e.req.tag, .retry, []⟩)
      ∧ q.hold = [] ∧ q.carry.demand = [] ∧ q.link = some ⟨0x3F, .accepted, [], none, 0⟩
      ∧ (settled r → q.device = .running
          ∧ q.notify.events = [⟨.restarted, q.notify.devPriority, q.notify.devTarget, none⟩]
          ∧ ∀ w, (q.win w).state = .off)
      ∧ (¬settled r → q.device = .restarting)

/-- WARM_RESET_COMPLETION: while the device is RESTARTING, the engine idle, no carry in flight and no entry of the part's own
clear of EXPIRED, every block is set as R168 lays down; otherwise nothing changes (R167, R168, R18, R38, R95, R123, R146).
What the rules keep is kept. -/
def Obligations.WarmResetCompletion : Prop :=
  ∀ s : State, s.part.resetn = .high →
    (s.part.device = .restarting → s.part.engine = none → s.part.carry.inFlight = [] →
      (∀ e ∈ s.part.down.table, e.req.origin = .part → e.expired = true) → ∃ q : Part,
      exec .warmResetCompletion s = .next { s with part := q }
      ∧ (∀ w, q.win w = { s.part.win w with
          state := .off, openGen := none, pubGen := none, lastGen := 0, publishCount := 0, rejectCount := 0
          noticeArmed := true, haltPending := false, carryFailed := false })
      ∧ q.device = .running ∧ q.freeSlots = 512 ∧ q.queue = [] ∧ q.engine = none ∧ (∀ b : Fin 4, q.banks[b] = ⟨0, 0⟩)
      ∧ q.carry.order = [] ∧ q.carry.demand = [] ∧ q.carry.inFlight = [] ∧ q.hold = []
      ∧ q.notify = { s.part.notify with
          events := [⟨.restarted, s.part.notify.devPriority, s.part.notify.devTarget, none⟩], loss := 0 }
      ∧ q.stb0 = s.part.stb0 ∧ q.stb1 = s.part.stb1 ∧ q.timers = s.part.timers ∧ q.down = s.part.down
      ∧ q.openCount = s.part.openCount ∧ q.responses = s.part.responses)
    ∧ (s.part.device = .running ∨ s.part.engine ≠ none ∨ s.part.carry.inFlight ≠ []
        ∨ (∃ e ∈ s.part.down.table, e.req.origin = .part ∧ e.expired = false) →
      exec .warmResetCompletion s = .next s)

/-! ## Requests -/

/-- Taking a request (R147, R148): while the open count is 64 an offered request is not taken; a request whose address is
not a multiple of 8, or whose last beat would lie beyond its line, is answered ERROR ALIGN at its take in every device
state, reaching nothing else; one that passes goes to the classifier; one beat at an 8-byte-aligned address passes, and
eight beats pass only at a line-aligned address. -/
def Obligations.AlignmentRefusal : Prop :=
  (∀ (s : State) (r : Request), s.part.resetn = .high →
    (64 ≤ s.part.openCount → exec (.requestTake r) s = .next s)
    ∧ (s.part.openCount < 64 → ¬(r.addr.toNat % 8 = 0 ∧ beatOf r.addr + r.beats ≤ 8) →
      exec (.requestTake r) s = .next { s with part := s.part.answeredAtTake r (.error .align) [] })
    ∧ (s.part.openCount < 64 → r.addr.toNat % 8 = 0 → beatOf r.addr + r.beats ≤ 8 →
      exec (.requestTake r) s = .next { s with
        part := (classify s.part.windows r).finish (s.part.countTake.serve (s.part.taken r)) }))
  ∧ (∀ r : Request, r.beats = 1 → r.addr.toNat % 8 = 0 → alignedRequest r = true)
  ∧ ∀ r : Request, r.beats = 8 → alignedRequest r = true → r.addr.toNat % 64 = 0

/-- A pass-through request is handed to the downstream port in every device state, covering the same address, beats and byte
enables; only the ports change (R43, R147). -/
def Obligations.PassThroughTake : Prop :=
  ∀ (s : State) (r : Request), s.part.resetn = .high → s.part.CanTake r → s.part.Accounted →
    classify s.part.windows r = .passThrough →
    ∃ (q : Part) (d : DownReq), exec (.requestTake r) s = .next { s with part := q }
      ∧ HandedOn s.part.takenOpen q d
      ∧ d.kind = (match r.op with | .read => .passRead | .write => .passWrite)
      ∧ d.line = lineOf r.addr ∧ d.first = beatOf r.addr ∧ d.beats = r.beats
      ∧ d.bytes = (match r.op with | .read => [] | .write => carriedBytes r)
      ∧ d.origin = .upstream r.master r.tag (lineOf r.addr)

/-- The bytes a write carries: beat k of the request is beat b + k of the line, b the beat number of its address, and the
byte enables say which of its bytes are carried (R24). The numbering of a beat's bytes is the model's (log 30). -/
def Obligations.CarriedBytes : Prop :=
  ∀ (r : Request) (k j : Nat), r.data.length = r.beats → beatOf r.addr + r.beats ≤ 8 → j < 8 →
    (∀ wb, r.data[k]? = some wb →
      byteAt (carriedBytes r) (8 * (beatOf r.addr + k) + j)
        = if wb.enables.getLsbD j then some ((wb.data >>> (8 * j)).setWidth 8) else none)
    ∧ (∀ i, i < 64 → (i / 8 < beatOf r.addr ∨ beatOf r.addr + r.beats ≤ i / 8) → byteAt (carriedBytes r) i = none)

/-- A write that a LIVE STAGED window admits (R24, R25, R26): one that carries no byte changes nothing; one whose line has an
OPEN slot is merged there, byte by byte; otherwise, below the quota and with a slot free, it is given a slot with exactly its
bytes, appended to the list. It is answered OKAY at its take, and nothing else changes. -/
def Obligations.AdmittedWrite : Prop :=
  ∀ (s : State) (r : Request) (w : WinIdx) (l : Nat) (g : Gen), s.part.Ready → s.part.CanTake r →
    classify s.part.windows r = .stagedProducerWrite w l → (s.part.win w).state = .live →
    (s.part.win w).openGen = some g → MasterSet.has g.arrived r.master = false →
    let done := s.part.answeredAtTake r .okay []
    ((∀ i < 64, byteAt (carriedBytes r) i = none) → exec (.requestTake r) s = .next { s with part := done })
    ∧ ((∃ i < 64, byteAt (carriedBytes r) i ≠ none) → (∃ x ∈ g.slots, x.line = lineOf r.addr) → ∃ slots : List Slot,
        exec (.requestTake r) s = .next { s with
          part := done.setWin w { s.part.win w with openGen := some { g with slots := slots } } }
        ∧ slots.map Slot.line = g.slots.map Slot.line
        ∧ ∀ (n : Nat) (a b : Slot), g.slots[n]? = some a → slots[n]? = some b →
            (a.line ≠ lineOf r.addr → b = a)
            ∧ (a.line = lineOf r.addr → ∀ i < 64,
                byteAt b.bytes i = (byteAt (carriedBytes r) i).or (byteAt a.bytes i)))
    ∧ ((∃ i < 64, byteAt (carriedBytes r) i ≠ none) → (∀ x ∈ g.slots, x.line ≠ lineOf r.addr) →
        (s.part.win w).holding < (s.part.win w).cfg.quota → 0 < s.part.freeSlots →
        exec (.requestTake r) s = .next { s with
          part := ({ done with freeSlots := s.part.freeSlots - 1 } : Part).setWin w { s.part.win w with
            openGen := some { g with slots := g.slots ++ [⟨lineOf r.addr, carriedBytes r⟩] }, noticeArmed := true } })

/-- A write that needs a slot and finds none (R27, R28, R29): under REFUSE it is answered ERROR NO_SPACE; under WAIT it is
held for SPACE, or answered RETRY when the hold queue holds 16 entries. With the notice armed EXHAUSTED is posted, with
outcome HELD when the write was held and REFUSED otherwise, and the notice is disarmed. Nothing else changes. -/
def Obligations.ExhaustedWrite : Prop :=
  ∀ (s : State) (r : Request) (w : WinIdx) (l : Nat) (g : Gen), s.part.Ready → s.part.CanTake r → s.part.Accounted →
    classify s.part.windows r = .stagedProducerWrite w l → (s.part.win w).state = .live →
    (s.part.win w).openGen = some g → MasterSet.has g.arrived r.master = false →
    (∃ i < 64, byteAt (carriedBytes r) i ≠ none) → (∀ x ∈ g.slots, x.line ≠ lineOf r.addr) →
    (s.part.win w).cfg.quota ≤ (s.part.win w).holding ∨ s.part.freeSlots = 0 →
    let win := s.part.win w
    let noted (o : ExhaustOutcome) (p : Part) : Part :=
      if win.noticeArmed then
        { p.setWin w { win with noticeArmed := false } with
          notify := p.notify.post ⟨.exhausted r.master (lineOf r.addr) o, win.cfg.priority, win.cfg.target, some w⟩ }
      else p
    (win.cfg.policy = .refuse →
      exec (.requestTake r) s = .next { s with part := noted .refused (s.part.answeredAtTake r (.error .noSpace) []) })
    ∧ (win.cfg.policy = .wait → s.part.hold.length < 16 →
      exec (.requestTake r) s = .next { s with part := noted .held (s.part.heldAtTake r .space w (.view l) none) })
    ∧ (win.cfg.policy = .wait → 16 ≤ s.part.hold.length →
      exec (.requestTake r) s = .next { s with part := noted .refused (s.part.answeredAtTake r .retry []) })

/-- A producer in the arrived set is fenced (R63): its write to a LIVE window, STAGED or FLIP, is held for FENCE at the tail of
the hold queue, or answered RETRY when the queue holds 16 entries; the ports apart, nothing else changes. -/
def Obligations.FencedWrite : Prop :=
  ∀ (s : State) (r : Request) (w : WinIdx) (l : Nat) (g : Gen), s.part.Ready → s.part.CanTake r → s.part.Accounted →
    s.part.AtRest →
    classify s.part.windows r = .stagedProducerWrite w l ∨ classify s.part.windows r = .flipProducerWrite w l →
    (s.part.win w).state = .live → (s.part.win w).openGen = some g → MasterSet.has g.arrived r.master = true →
    ∃ q : Part, exec (.requestTake r) s = .next { s with part := q }
      ∧ (s.part.hold.length < 16 → AfterPorts (s.part.heldAtTake r .fence w (.view l) none) q)
      ∧ (16 ≤ s.part.hold.length → AfterPorts (s.part.answeredAtTake r .retry []) q)

/-- Service by window state (R8): a producer's write to the view and a producer's arrival are answered RETRY in RETIRING and
ERROR HALTED in HALTED, and change nothing; the ports apart, nothing else changes. -/
def Obligations.TurnedAwayByState : Prop :=
  ∀ (s : State) (r : Request) (w : WinIdx) (l : Nat), s.part.Ready → s.part.CanTake r → s.part.AtRest →
    classify s.part.windows r = .stagedProducerWrite w l ∨ classify s.part.windows r = .flipProducerWrite w l
      ∨ classify s.part.windows r = .commitArrival w ∧ MasterSet.has (s.part.win w).cfg.producers r.master = true →
    ((s.part.win w).state = .retiring → ∃ q : Part, exec (.requestTake r) s = .next { s with part := q }
      ∧ AfterPorts (s.part.answeredAtTake r .retry []) q)
    ∧ ((s.part.win w).state = .halted → ∃ q : Part, exec (.requestTake r) s = .next { s with part := q }
      ∧ AfterPorts (s.part.answeredAtTake r (.error .halted) []) q)

/-- A consumer's write, to a STAGED or a FLIP window that is not OFF, is answered ERROR REFUSED whatever its byte enables, with
REFUSED posted at the window's priority and target, and changes nothing else; an arrival of a master outside the producer set
likewise, with the commit address as the line (R45, R8, R60). -/
def Obligations.ConsumerWriteRefused : Prop :=
  ∀ (s : State) (r : Request) (w : WinIdx), s.part.Ready → s.part.CanTake r →
    let refused (line : Addr) : Part := { s.part.answeredAtTake r (.error .refused) [] with
      notify := s.part.notify.post
        ⟨.refused r.master line, (s.part.win w).cfg.priority, (s.part.win w).cfg.target, some w⟩ }
    (∀ l, classify s.part.windows r = .stagedConsumerWrite w l →
      exec (.requestTake r) s = .next { s with part := refused (lineOf r.addr) })
    ∧ (∀ l, classify s.part.windows r = .flipConsumerWrite w l →
      exec (.requestTake r) s = .next { s with
        part := refused ((s.part.win w).cfg.viewBase + BitVec.ofNat 40 (64 * l)) })
    ∧ (classify s.part.windows r = .commitArrival w → s.part.AtRest →
      MasterSet.has (s.part.win w).cfg.producers r.master = false →
      ∃ q : Part, exec (.requestTake r) s = .next { s with part := q }
        ∧ AfterPorts (refused (s.part.win w).cfg.commitAddr) q)

/-- A request classified into a window while the device is RESTARTING is answered RETRY at its take, its commit line included,
and the window, the store and the hold queue are unchanged (R42, R57, R166). -/
def Obligations.RetryWhileRestarting : Prop :=
  ∀ (s : State) (r : Request), s.part.resetn = .high → s.part.device = .restarting → s.part.CanTake r →
    classify s.part.windows r ≠ .passThrough → s.part.restartSettled = false → s.part.offerDue = false →
    ∃ q : Part, exec (.requestTake r) s = .next { s with part := q }
      ∧ AfterPorts (s.part.answeredAtTake r .retry []) q

/-- A commit-status-read is answered OKAY at its take with the commit status beat: number, arrivals remaining, window state,
close pending with publishing state, and the low 24 bits of the stamp count, byte 7 zero (R59, Table 11.8); a malformed access
to the commit line is answered ERROR COMMIT_FORM (R58). Nothing else changes. That bits 6 to 3 of byte 3, which the table does
not list, are 0 is the model's choice (log 40). -/
def Obligations.CommitLineReads : Prop :=
  ∀ (s : State) (r : Request) (w : WinIdx), s.part.Ready → s.part.CanTake r →
    (classify s.part.windows r = .commitStatusRead w → ∃ beat : Beat,
      exec (.requestTake r) s = .next { s with part := s.part.answeredAtTake r .okay [beat] }
      ∧ let win := s.part.win w
        let pending := bit (genPending win.openGen)
        let at' (j : Nat) : Byte := (beat >>> (8 * j)).setWidth 8
        at' 0 = (match win.openGen with | none => win.lastGen | some g => g.number)
        ∧ at' 1 = (match win.openGen with | none => 0 | some g => BitVec.ofNat 8 g.remaining)
        ∧ at' 2 = (match win.state with | .off => 0 | .live => 1 | .retiring => 2 | .halted => 3)
        ∧ (win.pubGen = none → at' 3 = BitVec.ofNat 8 (pending * 128))
        ∧ (∀ g, win.pubGen = some g →
            (g.state = .closed → at' 3 = BitVec.ofNat 8 (pending * 128 + 1))
            ∧ (g.state = .checking → at' 3 = BitVec.ofNat 8 (pending * 128 + 2))
            ∧ (g.state = .draining → at' 3 = BitVec.ofNat 8 (pending * 128 + 3))
            ∧ (g.state = .stamping → at' 3 = BitVec.ofNat 8 (pending * 128 + 4)))
        ∧ at' 4 = win.stampCount.setWidth 8 ∧ at' 5 = (win.stampCount >>> 8).setWidth 8
        ∧ at' 6 = (win.stampCount >>> 16).setWidth 8 ∧ at' 7 = 0)
    ∧ (classify s.part.windows r = .commitMalformed w →
      exec (.requestTake r) s = .next { s with part := s.part.answeredAtTake r (.error .commitForm) [] })

/-- A countable arrival that does not close its generation at once is counted and held for CLOSE; the one that makes arrivals
remaining 0 behind a publishing generation reaches close, which pends, its value recorded when the source is COMMIT; with 16
entries held it is answered RETRY and not counted; an arrival that is not countable is held for FENCE (R61, R62, R66). The
ports apart, nothing else changes. -/
def Obligations.ArrivalHeld : Prop :=
  ∀ (s : State) (r : Request) (w : WinIdx) (g : Gen), s.part.Ready → s.part.CanTake r → s.part.Accounted → s.part.AtRest →
    classify s.part.windows r = .commitArrival w → MasterSet.has (s.part.win w).cfg.producers r.master = true →
    (s.part.win w).state = .live → (s.part.win w).openGen = some g →
    ∃ q : Part, exec (.requestTake r) s = .next { s with part := q }
      ∧ (MasterSet.has g.arrived r.master = true ∨ g.remaining = 0 →
          (s.part.hold.length < 16 → AfterPorts (s.part.heldAtTake r .fence w .commit none) q)
          ∧ (16 ≤ s.part.hold.length → AfterPorts (s.part.answeredAtTake r .retry []) q))
      ∧ (MasterSet.has g.arrived r.master = false → 1 < g.remaining →
          (s.part.hold.length < 16 →
            AfterPorts ((s.part.heldAtTake r .close w .commit (some g.number)).setWin w { s.part.win w with
              openGen := some { g with
                remaining := g.remaining - 1, arrived := MasterSet.add g.arrived r.master } }) q)
          ∧ (16 ≤ s.part.hold.length → AfterPorts (s.part.answeredAtTake r .retry []) q))
      ∧ (MasterSet.has g.arrived r.master = false → g.remaining = 1 → (s.part.win w).pubGen ≠ none →
          (s.part.hold.length < 16 →
            AfterPorts ((s.part.heldAtTake r .close w .commit (some g.number)).setWin w { s.part.win w with
              openGen := some { g with
                remaining := 0, arrived := MasterSet.add g.arrived r.master, closePending := true
                operand := match (s.part.win w).cfg.source with
                  | .commit => some (arrivalValue r)
                  | .stamp => g.operand } }) q)
          ∧ (16 ≤ s.part.hold.length → AfterPorts (s.part.answeredAtTake r .retry []) q))

/-- The arrival that makes arrivals remaining 0 in a LIVE window without a publishing generation closes the generation at once
and is answered OKAY (R61, R66, R67): the generation is CLOSED with its operand, a new OPEN generation follows, the CLOSE
entries of the generation are answered OKAY before it, and, with trigger IMMEDIATE and an empty carry map, the window joins the
publish queue (R76, R112). That they are answered before the arrival is the order of the model's own record of responses (log
9): responses of one event may leave in either order (R149). Stated while the engine is busy and no request of the window is
held for FENCE, so that the event ends there (what a close does with such a request is stated for CLOSE); the ports apart,
nothing else changes. -/
def Obligations.ArrivalClosesAtOnce : Prop :=
  ∀ (s : State) (r : Request) (w : WinIdx) (g : Gen), s.part.Ready → s.part.CanTake r → s.part.Accounted →
    s.part.engine ≠ none → s.part.offerDue = false → (∀ e ∈ s.part.hold, e.window = w → e.reason ≠ .fence) →
    w ∉ s.part.queue →
    classify s.part.windows r = .commitArrival w → MasterSet.has (s.part.win w).cfg.producers r.master = true →
    (s.part.win w).state = .live → (s.part.win w).openGen = some g → MasterSet.has g.arrived r.master = false →
    g.remaining = 1 → (s.part.win w).pubGen = none →
    let closed := s.part.takenOpen.closing w
      { g with remaining := 0, arrived := MasterSet.add g.arrived r.master } (some (arrivalValue r))
    ∃ q : Part, exec (.requestTake r) s = .next { s with part := q }
      ∧ AfterPorts
          { closed with
            openCount := closed.openCount - 1
            responses := closed.responses ++ [⟨r.master, r.tag, .okay, []⟩] } q

/-! ## Reads of windows -/

/-- A consumer read of a STAGED window (R47, Table 3.3): while the publishing generation is DRAINING, its drain not failing,
and holds a slot for the line, it is answered from a slot that is full, and placed as a view read that waits behind one that
is not (R48); in every other case, in HALTED always (R8), it is placed as a view read that waits for nothing. The ports apart,
nothing else changes. -/
def Obligations.StagedConsumerRead : Prop :=
  ∀ (s : State) (r : Request) (w : WinIdx) (l : Nat), s.part.Ready → s.part.CanTake r → s.part.Accounted →
    classify s.part.windows r = .stagedConsumerRead w l →
    let win := s.part.win w
    let line := lineOf r.addr
    ∃ q : Part, exec (.requestTake r) s = .next { s with part := q }
      ∧ (∀ g x, win.state ≠ .halted → win.pubGen = some g → g.state = .draining →
          drainFailing s.part.engine w = false → g.slotFor line = some x →
          ((∀ i < 64, byteAt x.bytes i ≠ none) → ∃ data : List Beat,
            AfterPorts (s.part.answeredAtTake r .okay data) q
            ∧ BeatsShow data (beatOf r.addr) r.beats fun i => (byteAt x.bytes i).getD 0)
          ∧ (¬(∀ i < 64, byteAt x.bytes i ≠ none) →
            HandedOn s.part.takenOpen q (s.part.viewReadOf r w line line ⟨true, false, none, none, true⟩)))
      ∧ (win.state = .halted ∨ win.pubGen = none ∨ drainFailing s.part.engine w = true
          ∨ (∃ g, win.pubGen = some g ∧ (g.state ≠ .draining ∨ g.slotFor line = none)) →
          HandedOn s.part.takenOpen q (s.part.viewReadOf r w line line ⟨true, false, none, none, false⟩))

/-- A producer read of a STAGED window (R51, R52, Table 3.4): the OPEN generation's slot for the line lies over the
publishing generation's, which counts while that generation is CLOSED, CHECKING, or DRAINING with the drain not failing. A
full slot answers with what lies over it; otherwise a view read is placed that carries the OPEN slot's bytes and, while the
publishing generation is CLOSED or CHECKING, its slot's bytes; while it is DRAINING the read waits behind its slot (R48). In
HALTED the read is a consumer's (R8). The ports apart, nothing else changes. -/
def Obligations.StagedProducerRead : Prop :=
  ∀ (s : State) (r : Request) (w : WinIdx) (l : Nat), s.part.Ready → s.part.CanTake r → s.part.Accounted →
    classify s.part.windows r = .stagedProducerRead w l →
    let win := s.part.win w
    let line := lineOf r.addr
    let full (x : Slot) : Prop := ∀ i < 64, byteAt x.bytes i ≠ none
    let unseen : Prop := ∃ g, win.pubGen = some g ∧ (g.state = .closed ∨ g.state = .checking)
    let draining : Prop := (∃ g, win.pubGen = some g ∧ g.state = .draining) ∧ drainFailing s.part.engine w = false
    let newer := slotOf win.openGen line
    let older := slotOf win.pubGen line
    let view (q : Part) (read : ReadPart) : Prop := HandedOn s.part.takenOpen q (s.part.viewReadOf r w line line read)
    let shows (q : Part) (value : Nat → Byte) : Prop := ∃ data : List Beat,
      AfterPorts (s.part.answeredAtTake r .okay data) q ∧ BeatsShow data (beatOf r.addr) r.beats value
    ∃ q : Part, exec (.requestTake r) s = .next { s with part := q }
      ∧ (win.state = .halted → view q ⟨true, false, none, none, false⟩)
      ∧ (win.state ≠ .halted →
          (newer = none → (unseen ∨ draining → older = none) → view q ⟨false, false, none, none, false⟩)
          ∧ (∀ o, newer = some o → full o → shows q fun i => (byteAt o.bytes i).getD 0)
          ∧ (∀ o, newer = some o → ¬full o → (unseen ∨ draining → older = none) →
              view q ⟨false, false, some o.bytes, none, false⟩)
          ∧ (∀ b, older = some b → unseen ∨ draining → (∀ o, newer = some o → ¬full o) →
              (full b → shows q fun i =>
                ((newer.bind fun o => byteAt o.bytes i).or (byteAt b.bytes i)).getD 0)
              ∧ (¬full b → unseen → view q ⟨false, false, newer.map Slot.bytes, some b.bytes, false⟩)
              ∧ (¬full b → draining → view q ⟨false, false, newer.map Slot.bytes, none, true⟩)))

/-- Reads of a FLIP window (R106, R107, R8): a consumer's goes to the front image's line; a producer's goes to the front
image while its line has its carry bit set or a carry in flight, and in HALTED, and to the back image otherwise. Each is a
view read that covers the same beats and waits for nothing; the ports apart, nothing else changes. That MEMORY_ERROR would
name the view line is the model's reading (log 19). -/
def Obligations.FlipReads : Prop :=
  ∀ (s : State) (r : Request) (w : WinIdx) (l : Nat), s.part.Ready → s.part.CanTake r → s.part.Accounted →
    let win := s.part.win w
    let at' (base : Addr) : Addr := base + BitVec.ofNat 40 (64 * l)
    let front := at' (match win.front with | .imageA => win.cfg.imageA | .imageB => win.cfg.imageB)
    let back := at' (match win.front with | .imageA => win.cfg.imageB | .imageB => win.cfg.imageA)
    let carried : Prop := LineMap.has (s.part.carryMap w) l = true ∨ ∃ c ∈ s.part.carry.inFlight, c.window = w ∧ c.line = l
    let view (line : Addr) (consumer : Bool) : Prop := ∃ q : Part,
      exec (.requestTake r) s = .next { s with part := q }
      ∧ HandedOn s.part.takenOpen q
          (s.part.viewReadOf r w line (at' win.cfg.viewBase) ⟨consumer, true, none, none, false⟩)
    (classify s.part.windows r = .flipConsumerRead w l → view front true)
    ∧ (classify s.part.windows r = .flipProducerRead w l →
        (win.state = .halted → view front true)
        ∧ (win.state ≠ .halted → carried → view front false)
        ∧ (win.state ≠ .halted → ¬carried → view back false))

/-- A producer's write to a LIVE FLIP window that is not fenced (R108, R109, R119): behind a CLOSED or CHECKING generation it is
held for FLIP_WAIT; else, carrying no byte, it is answered OKAY; else, to a line with its carry bit set or a carry in flight,
it is held for CARRY with its demand entry, unless it covers the whole line, no carry of the line is in flight and no CARRY
entry of the line is held, when it cancels the carry and is redirected; else it sets the dirty bit and is redirected to the
back image. Where a hold needs the seventeenth entry it is answered RETRY (R125). The clause of the cancelled carry is stated
for a carry map that stays non-empty. The ports apart, nothing else changes. -/
def Obligations.FlipWrites : Prop :=
  ∀ (s : State) (r : Request) (w : WinIdx) (l : Nat) (g : Gen), s.part.Ready → s.part.CanTake r → s.part.Accounted →
    s.part.AtRest → classify s.part.windows r = .flipProducerWrite w l → (s.part.win w).state = .live →
    (s.part.win w).openGen = some g → MasterSet.has g.arrived r.master = false →
    let win := s.part.win w
    let bank := s.part.bank w
    let unseen : Prop := ∃ x, win.pubGen = some x ∧ (x.state = .closed ∨ x.state = .checking)
    let empty : Prop := ∀ i < 64, byteAt (carriedBytes r) i = none
    let inFlight : Prop := ∃ c ∈ s.part.carry.inFlight, c.window = w ∧ c.line = l
    let carried : Prop := LineMap.has (s.part.carryMap w) l = true ∨ inFlight
    let whole : Prop := r.beats = 8 ∧ beatOf r.addr = 0 ∧ (∀ i < 64, byteAt (carriedBytes r) i ≠ none) ∧ ¬inFlight
      ∧ ∀ e ∈ s.part.hold, ¬(e.window = w ∧ e.reason = .carry ∧ e.line = .view l)
    let d : DownReq :=
      { id := s.part.nextId, kind := .redirectedWrite
        line := (match win.front with | .imageA => win.cfg.imageB | .imageB => win.cfg.imageA) + BitVec.ofNat 40 (64 * l)
        first := beatOf r.addr, beats := r.beats, bytes := carriedBytes r
        origin := .upstream r.master r.tag (win.cfg.viewBase + BitVec.ofNat 40 (64 * l)), window := some w
        gen := none, carryLine := none, read := ⟨false, false, none, none, false⟩, flipMark := win.flipMark }
    let held := s.part.hold.length < 16
    let retry := AfterPorts (s.part.answeredAtTake r .retry [])
    ∃ q : Part, exec (.requestTake r) s = .next { s with part := q }
      ∧ (unseen →
          (held → AfterPorts (s.part.heldAtTake r .flipWait w (.view l) none) q) ∧ (¬held → retry q))
      ∧ (¬unseen → empty → AfterPorts (s.part.answeredAtTake r .okay []) q)
      ∧ (¬unseen → ¬empty → ¬carried →
          HandedOn (s.part.takenOpen.setBank w { bank with dirty := LineMap.add bank.dirty l }) q d)
      ∧ (¬unseen → ¬empty → carried → ¬whole →
          (held → AfterPorts
            { s.part.heldAtTake r .carry w (.view l) none with
              carry := { s.part.carry with demand := s.part.carry.demand ++ [⟨w, l, s.part.nextSeq⟩] } } q)
          ∧ (¬held → retry q))
      ∧ (¬unseen → ¬empty → carried → whole → LineMap.remove bank.carry l ≠ 0 →
          HandedOn
            (s.part.takenOpen.setBank w
              { dirty := LineMap.add bank.dirty l, carry := LineMap.remove bank.carry l }) q d)

/-! ## Answers of memory -/

/-- An answer to a forwarded request (R43, R53, R109): OKAY is passed on, a pass-read with memory's beats, a view read with the
publishing copy's bytes laid over memory's and the OPEN copy's over both (a missing beat reading 0, the model's choice, log
31), a write without data; ERROR becomes ERROR MEMORY with MEMORY_ERROR posted at the device-event setting. The entry leaves
the table, the open count falls by one, and the ports apart nothing else changes; for a redirected write the engine is busy or
its queue empty, while the device is RUNNING (while it is RESTARTING, where the conditions of the warm reset completion hold,
it falls in the event, R167). A redirected write's deadline ends it as ERROR does, its entry staying, EXPIRED (R157). Where the
engine's check of a FLIP window waits to settle (R113), the end of a redirected write leaves it waiting while another of the
window waits or is outstanding, and after the last one the guard read is placed. -/
def Obligations.ForwardedAnswers : Prop :=
  ∀ (s : State) (e : Entry) (m : MasterId) (t : Tag) (line : Addr), s.part.resetn = .high → s.part.Accounted →
    e ∈ s.part.down.table → e.expired = false → e.req.origin = .upstream m t line →
    let id := e.req.id
    let ends (c : Instr) (st : RespStatus) (data : List Beat) (n : Notify) : Prop := ∃ q : Part,
      exec c s = .next { s with part := q } ∧ AfterPorts { s.part.endedFor id m t st data with notify := n } q
    let fails (c : Instr) : Prop := ends c (.error .memory) [] (s.part.notifiedError m line)
    (e.req.kind = .passRead → (∀ data, data.length = e.req.beats →
        ends (.passThroughAnswer id (.okay data)) .okay data s.part.notify)
      ∧ fails (.passThroughAnswer id .error))
    ∧ (e.req.kind = .passWrite → (∀ data, ends (.passThroughAnswer id (.okay data)) .okay [] s.part.notify)
      ∧ fails (.passThroughAnswer id .error))
    ∧ (e.req.kind = .viewRead →
        (e.req.first + e.req.beats ≤ 8 → ∀ data, ∃ beats : List Beat,
          ends (.viewReadAnswer id (.okay data)) .okay beats s.part.notify
          ∧ BeatsShow beats e.req.first e.req.beats fun i =>
              ((byteAt (e.req.read.openCopy.getD []) i).or (byteAt (e.req.read.pubCopy.getD []) i)).getD
                (((data[i / 8 - e.req.first]?.getD 0) >>> (8 * (i % 8))).setWidth 8))
        ∧ fails (.viewReadAnswer id .error))
    ∧ (e.req.kind = .redirectedWrite → s.part.offerDue = false →
        (s.part.device = .running → s.part.engine ≠ none ∨ s.part.queue = []) →
        let ended (c : Instr) (base : Part) : Prop := ∃ q : Part, exec c s = .next { s with part := q } ∧ AfterEvent base q
        let okay (d : Down) : Part := { s.part.endedFor id m t .okay [] with down := d }
        let bad (d : Down) : Part :=
          { s.part.endedFor id m t (.error .memory) [] with down := d, notify := s.part.notifiedError m line }
        let write := Instr.redirectedWriteAnswer id (.okay [])
        let waits (d : Down) : Prop := ∀ k, s.part.engine = some k → k.begun = false → k.phase = .checking →
          (s.part.win k.window).cfg.kind = .flip ∧ d.redirectLeft k.window
        let placing (k : Work) (base : Part) : Part :=
          { base with engine := some { k with begun := true, guardRead := some s.part.nextId } }.withPublish
            (s.part.guardReadOf k.window k.gen)
        let last (k : Work) (d : Down) : Prop := s.part.engine = some k ∧ k.begun = false ∧ k.phase = .checking
          ∧ (s.part.win k.window).cfg.kind = .flip ∧ ¬d.redirectLeft k.window ∧ (s.part.win k.window).cfg.guardOp ≠ .none
        let down := s.part.down.without id
        (waits down → (∀ data, ended (.redirectedWriteAnswer id (.okay data)) (okay down)) ∧ ended write (okay down))
        ∧ (∀ k, last k down → ended write (placing k (okay down)))
        ∧ ∀ c d, s.part.endsBadly e (.redirectedWriteAnswer id .error) c d →
            (waits d → ended c (bad d)) ∧ ∀ k, last k d → ended c (placing k (bad d)))

/-- The answer to the guard read the engine waits for (R78 to R82, Table 5.1). When the guard word and the operand satisfy the
guard operation a STAGED generation enters DRAINING with one drain write for each slot, with its bytes, placed in slot-list
order (R83), and a FLIP one is flipped (R114): its stamp write is placed, and with no stamp address it is released at once
(R88, R89, R92). When they do not, or memory answers ERROR, or the deadline is reached (R157), the generation is rejected,
GUARD_FALSE or GUARD_ERROR, and the reject count rises to at most 255. STAGED: under DISCARD its slots are freed; under REOPEN
they are merged into the OPEN generation, whose bytes lie over (R36); without one it is discarded, and a RETIRING window goes
OFF (R37, R15). FLIP (R115): it is the OPEN generation again, with the barrier of the one that gives way, whose CLOSE entries
are renumbered; without one it is discarded and its dirty lines join the carry map (R120). A close that pends on the OPEN
generation, the merged one under REOPEN or the FLIP generation again OPEN, is then carried out (R82 step 3, R68), in a LIVE
window and in a RETIRING one; where the closed generation is eligible at once the idle engine takes it (R77; stated with a
guard operation). Stated where the event ends there: no SPACE entry, an empty publish queue, for a pending close no FENCE entry
of the window, and for FLIP, of a window that is not OFF (an OFF one has no publishing generation, R5), no FLIP_WAIT entry of
the window but in one clause, where the flip releases one write and redirects it to the new back image. The end of a guard read
that the engine no longer waits for, also while the device is RESTARTING, changes nothing but its entry (R79, R94), and the
completion may fall in its event (R167). -/
def Obligations.GuardReadAnswer : Prop :=
  (∀ (s : State) (e : Entry) (k : Work) (g : Gen) (v : BitVec 32), s.part.Ready → s.part.Accounted →
    s.part.offerDue = false → (∀ x ∈ s.part.hold, x.reason ≠ .space) → s.part.queue = [] →
    e ∈ s.part.down.table → e.expired = false → e.req.kind = .guardRead →
    s.part.engine = some k → k.phase = .checking → k.guardRead = some e.req.id →
    (s.part.win k.window).pubGen = some g → g.operand = some v →
    let p := s.part
    let id := e.req.id
    let w := k.window
    let win := p.win w
    let passes (beat : Beat) : Prop := GuardHolds win.cfg.guardOp (wordAt win.cfg.guardAddr beat) v
    let ended (c : Instr) (base : Part) : Prop := ∃ q : Part, exec c s = .next { s with part := q } ∧ AfterPorts base q
    let rejecting (goes : RejectReason → Down → (Part → Prop) → Prop) : Prop :=
      (∀ beat, ¬passes beat → goes .guardFalse (p.down.without id) (ended (.guardReadAnswer id (.okay [beat]))))
      ∧ ∀ c d, p.endsBadly e (.guardReadAnswer id .error) c d → goes .guardError d (ended c)
    let rejects (base : RejectReason → Down → Part) : Prop := rejecting fun why d ended => ended (base why d)
    let closes (m : Gen) (base : RejectReason → Down → Part) : Prop :=
      (∀ x ∈ p.hold, x.window = w → x.reason ≠ .fence) → rejecting fun why d ended =>
        let closed := (base why d).closing w m m.operand
        (closed.queue = [] → ended closed) ∧ (closed.queue = [w] → closed.TakesHead w ended)
    let count := min 255 (win.rejectCount + 1)
    let rejected (act : RejectAction) (freed : Nat) (win' : Window) (why : RejectReason) (d : Down) : Part :=
      ({ p with
          down := d, engine := none, freeSlots := p.freeSlots + freed
          notify := p.notified w (.rejected g.number why act) } : Part).setWin w { win' with rejectCount := count }
    let waiting := p.hold.filter fun x => x.window = w && x.reason = .flipWait
    (∀ beat, passes beat → win.cfg.kind = .staged → g.slots ≠ [] →
      ended (.guardReadAnswer id (.okay [beat])) (({ p with down := p.down.without id } : Part).draining k g))
    ∧ (∀ beat, passes beat → win.cfg.kind = .flip →
      let flipped : Part := { p.flipped w g with down := p.down.without id }
      let stamping : Part := { flipped with engine := some { k with phase := .stamping } }
      (win.cfg.stampPresent = true → ∃ d : DownReq, p.StampWriteOf w k.gen d
        ∧ (win.state ≠ .off → waiting = [] → ended (.guardReadAnswer id (.okay [beat])) (stamping.withPublish d))
        ∧ ∀ x l, waiting = [x] → classify p.windows x.req = .flipProducerWrite w l → win.state = .live →
            (∀ o, win.openGen = some o → MasterSet.has o.arrived x.req.master = false) →
            (∃ i < 64, byteAt (carriedBytes x.req) i ≠ none) → LineMap.has (p.bank w).dirty l = false →
            p.carrying w l = false →
            ended (.guardReadAnswer id (.okay [beat]))
              (let placed := (stamping.withPublish d).withoutHeld x
               let write : DownReq :=
                { id := placed.nextId, kind := .redirectedWrite, line := (placed.win w).backLine l
                  first := beatOf x.req.addr, beats := x.req.beats, bytes := carriedBytes x.req
                  origin := .upstream x.req.master x.req.tag (lineAt win.cfg.viewBase l), window := some w, gen := none
                  carryLine := none, read := ⟨false, false, none, none, false⟩, flipMark := p.nextId }
               { placed with
                 banks := placed.banks.set win.cfg.bank ⟨LineMap.add 0 l, (p.bank w).dirty⟩
                 nextId := placed.nextId + 1
                 down := { placed.down with forwarded := placed.down.forwarded ++ [write] } }))
      ∧ (win.cfg.stampPresent = false → waiting = [] → win.state = .live ∨ win.state = .retiring →
          flipped.ReleaseEnds k 0 (ended (.guardReadAnswer id (.okay [beat])))))
    ∧ (win.cfg.kind = .staged → win.state = .live ∨ win.state = .retiring → ∀ o, win.openGen = some o →
      (win.cfg.onReject = .discard →
        let base := rejected .discarded g.slots.length { win with pubGen := none }
        (win.state = .live → o.closePending = false → rejects base) ∧ (o.closePending = true → closes o base))
      ∧ (win.cfg.onReject = .reopen →
          let bytes (l : List Slot) (line : Addr) (i : Nat) : Option Byte :=
            (l.find? fun x => x.line = line).bind fun x => byteAt x.bytes i
          ∃ slots : List Slot,
            let merged : Gen := { o with slots := slots }
            let base := rejected .reopened (g.slots.countP fun x => o.slots.any fun y => y.line = x.line)
              { win with pubGen := none, openGen := some merged }
            slots.map Slot.line
                = g.slots.map Slot.line ++ (o.slots.map Slot.line).filter (fun a => g.slots.all fun x => x.line ≠ a)
            ∧ (∀ line, ∀ i < 64, bytes slots line i = (bytes o.slots line i).or (bytes g.slots line i))
            ∧ (win.state = .live → o.closePending = false → rejects base) ∧ (o.closePending = true → closes merged base)))
    ∧ (win.cfg.kind = .staged → win.state = .retiring → win.openGen = none → win.haltPending = false →
        rejects fun why d => (rejected .discarded g.slots.length { win with pubGen := none } why d).goingOff w)
    ∧ (win.cfg.kind = .flip → waiting = [] →
      (∀ o, win.openGen = some o → win.state = .live ∨ win.state = .retiring →
        let reopened : Gen := { o with state := .opened, number := g.number, slots := g.slots }
        let base (why : RejectReason) (d : Down) : Part :=
          { rejected .reopened 0 { win with pubGen := none, openGen := some reopened } why d with
            hold := p.hold.map fun x =>
              if x.window = w ∧ x.reason = .close ∧ x.gen = some o.number then { x with gen := some g.number } else x }
        (win.state = .live → o.closePending = false → rejects base) ∧ (o.closePending = true → closes reopened base))
      ∧ (win.openGen = none → win.state = .retiring → (p.bank w).carry ||| (p.bank w).dirty ≠ 0 →
        rejects fun why d =>
          (rejected .discarded 0 { win with pubGen := none } why d).carryFor w ((p.bank w).carry ||| (p.bank w).dirty))
      ∧ (win.openGen = none → win.state = .retiring → (p.bank w).carry ||| (p.bank w).dirty = 0 → win.haltPending = false →
        rejects fun why d => (rejected .discarded 0 { win with pubGen := none } why d).goingOff w)))
  ∧ ∀ (s : State) (e : Entry), s.part.resetn = .high → s.part.Accounted → s.part.offerDue = false →
    (s.part.device = .running → s.part.engine ≠ none ∨ s.part.queue = []) →
    e ∈ s.part.down.table → e.expired = false → e.req.kind = .guardRead →
    (∀ k, s.part.engine = some k → k.phase = .checking → k.guardRead ≠ some e.req.id) →
    let ended (c : Instr) (d : Down) : Prop :=
      ∃ q : Part, exec c s = .next { s with part := q } ∧ AfterEvent { s.part with down := d } q
    (∀ data, ended (.guardReadAnswer e.req.id (.okay data)) (s.part.down.without e.req.id))
    ∧ ∀ c d, s.part.endsBadly e (.guardReadAnswer e.req.id .error) c d → ended c d

/-- The answer to a drain write, in a RUNNING and in a RESTARTING device (R85 to R87, R94, R48). OKAY: the slot for its line is
freed, the count of lines answered OKAY rises, reads that wait behind the slot wait no longer, and an offer pass follows (R32,
R30; stated where it serves one entry); at the last answer of a drain that is not failing the generation enters STAMPING, with
its stamp write placed (R88), or without a stamp address is released with PUBLISHED (R89), and what follows a release follows
it (R92: a pending close, carried out only while RUNNING (R68), a pending halt, a RETIRING window's going OFF, with a
generation left OPEN by a RESTART, log 16). A failure, by ERROR or by the deadline (R157): the first records its line and the
drain writes not yet issued leave the PUBLISH list; no slot is freed. Later answers of a failing drain count likewise; when no
issued drain write is unanswered the remaining slots are freed, TORN is posted with the counts, the engine is idle and the
window is HALTED (R16). While RESTARTING the warm reset completion falls in the event after which its conditions hold (R167).
Stated but for the offer pass with no SPACE entry, and where the engine becomes idle with, while RUNNING, an empty publish
queue, so that the event ends there. -/
def Obligations.DrainWriteAnswer : Prop :=
  ∀ (s : State) (e : Entry) (k : Work) (g : Gen), s.part.resetn = .high → s.part.Accounted → s.part.offerDue = false →
    e ∈ s.part.down.table → e.expired = false → e.req.kind = .drainWrite →
    s.part.engine = some k → k.phase = .draining → (s.part.win k.window).pubGen = some g →
    let p := s.part
    let id := e.req.id
    let line := e.req.line
    let w := k.window
    let win := p.win w
    let down := (p.down.without id).waitsEnded w line
    let rest : Gen := { g with slots := g.slots.filter fun x => x.line ≠ line }
    let noSpace : Prop := ∀ x ∈ p.hold, x.reason ≠ .space
    let noTake : Prop := p.device = .running → p.queue = []
    let okayed : Part := ({ p with
      down := down, freeSlots := p.freeSlots + 1, engine := some { k with okay := k.okay + 1 } } : Part).setWin w
        { win with pubGen := some rest }
    let ended (c : Instr) (base : Part) : Prop := ∃ q : Part, exec c s = .next { s with part := q } ∧ AfterEvent base q
    let okay (data : List Beat) : Instr := .drainWriteAnswer id (.okay data)
    let torn (d : Down) (firstFailed : Addr) (written failed left : Nat) : Part :=
      (({ p with
          freeSlots := p.freeSlots + left, engine := none
          down := { d with
            forwarded := d.forwarded.map fun r =>
              if r.read.waits = true ∧ r.window = some w then { r with read := { r.read with waits := false } } else r }
          notify := p.notified w
            (.torn k.gen firstFailed written failed (k.drainLength - k.issued) false) } : Part).setWin w
        { win with pubGen := none }).halting w
    let halts : Prop := (win.state = .live ∨ win.state = .retiring) ∧ win.haltPending = false ∧ noTake ∧ noSpace
    (∀ data, k.failed = 0 → noSpace → g.slotFor line ≠ none → k.okay + 1 ≠ k.drainLength → ended (okay data) okayed)
    ∧ (∀ data x o, k.failed = 0 → g.slotFor line ≠ none → k.okay + 1 ≠ k.drainLength → okayed.Offers x o →
        ended (okay data) (okayed.slotGiven x o))
    ∧ (∀ data, k.failed = 0 → noSpace → g.slotFor line ≠ none → k.okay + 1 = k.drainLength →
        (win.cfg.stampPresent = true → ∃ d : DownReq, p.StampWriteOf w k.gen d
          ∧ ended (okay data)
              ((({ okayed with engine := some { k with okay := k.okay + 1, phase := .stamping } } : Part).setWin w
                { win with pubGen := some { rest with state := .stamping } }).withPublish d))
        ∧ (win.cfg.stampPresent = false → win.cfg.kind = .staged → win.state = .live ∨ win.state = .retiring → noTake →
            okayed.ReleaseEnds k k.drainLength (ended (okay data))))
    ∧ (∀ c d, p.endsBadly e (.drainWriteAnswer id .error) c d → k.failed = 0 →
        let withdrawn : Down :=
          { d.waitsEnded w line with publish := d.publish.filter fun r => r.kind ≠ .drainWrite }
        (k.issued ≠ k.okay + 1 → noSpace →
          ended c { p with down := withdrawn, engine := some { k with failed := 1, firstFailed := some line } })
        ∧ (k.issued = k.okay + 1 → halts → ended c (torn withdrawn line k.okay 1 g.slots.length)))
    ∧ (0 < k.failed →
        (∀ data, g.slotFor line ≠ none → (g.slots.map Slot.line).Nodup →
          (k.issued ≠ k.okay + 1 + k.failed → noSpace → ended (okay data) okayed)
          ∧ (k.issued = k.okay + 1 + k.failed → halts →
              ended (okay data) (torn down (k.firstFailed.getD 0) (k.okay + 1) k.failed g.slots.length)))
        ∧ ∀ c d, p.endsBadly e (.drainWriteAnswer id .error) c d →
          (k.issued ≠ k.okay + (k.failed + 1) → noSpace →
            ended c { p with down := d.waitsEnded w line, engine := some { k with failed := k.failed + 1 } })
          ∧ (k.issued = k.okay + (k.failed + 1) → halts →
              ended c (torn d (k.firstFailed.getD 0) k.okay (k.failed + 1) g.slots.length)))

/-- The answer to the stamp write, in a RUNNING and in a RESTARTING device (R88 to R90, R92, R94). OKAY: the stamp count and
the publish count rise by one, modulo their sizes, PUBLISHED is posted with the new stamp and the lines written, the record
leaves and the engine is idle; then, while RUNNING only, a close that pends is carried out, its CLOSE entries answered OKAY
(R68, R67; with trigger IMMEDIATE and an empty carry map the idle engine takes the window at once, and its guard read is
placed, R76, R77, that of a FLIP generation when no redirected write is left, R113); then, with halt pending set, the window
goes HALTED, a generation just closed being discarded (R16); without it, a RETIRING window with no publishing generation and no
carry work goes OFF, with WINDOW_OFF (R15), and one with carry work stays RETIRING. A failure, by ERROR or by the deadline
(R157): the counts stay, TORN is posted with the stamp-failed flag, the record leaves, the engine is idle and the window is
HALTED, whether or not halt pending was set (R16). While RESTARTING a pending close stays pending (R94; one of a window that
goes OFF goes with its generation, log 16), and the warm reset completion falls in the event after which its conditions hold
(R167). Stated with no SPACE entry and, while RUNNING, an empty publish queue, so that the event ends there; a pending close
with no FENCE entry of the window. -/
def Obligations.StampWriteAnswer : Prop :=
  ∀ (s : State) (e : Entry) (k : Work) (g : Gen), s.part.resetn = .high → s.part.Accounted → s.part.offerDue = false →
    (∀ x ∈ s.part.hold, x.reason ≠ .space) → (s.part.device = .running → s.part.queue = []) →
    e ∈ s.part.down.table → e.expired = false → e.req.kind = .stampWrite →
    s.part.engine = some k → k.phase = .stamping →
    (s.part.win k.window).state = .live ∨ (s.part.win k.window).state = .retiring →
    (s.part.win k.window).pubGen = some g →
    let p := s.part
    let id := e.req.id
    let w := k.window
    let win := p.win w
    let lines := match win.cfg.kind with | .staged => k.drainLength | .flip => 0
    let ended (c : Instr) (base : Part) : Prop := ∃ q : Part, exec c s = .next { s with part := q } ∧ AfterEvent base q
    (∀ data, ({ p with down := p.down.without id } : Part).ReleaseEnds k lines (ended (.stampWriteAnswer id (.okay data))))
    ∧ ∀ c d, p.endsBadly e (.stampWriteAnswer id .error) c d →
        ended c ((({ p with
            down := d, engine := none
            notify := p.notified w (.torn k.gen (lineOf win.cfg.stampAddr) lines 0 0 true) } : Part).setWin w
          { win with pubGen := none }).halting w)

/-- The answers to a carry's requests, in a RUNNING and in a RESTARTING device (R118, R121, R123). A carry read's OKAY: the
carry write of its line is placed, with memory's line (a missing beat reading 0, the model's choice, log 31) and every byte
enabled, and the carry waits for it. A carry write's OKAY: the line's carry bit clears and the carry is no longer in flight;
the line's CARRY entries are released, one of them stated, redirected to the back image; when the carry map empties the window
leaves the carry order, while RUNNING a CLOSED generation with trigger IMMEDIATE joins the publish queue (R112), where an idle
engine takes it at once (R77; stated with a guard operation), and a RETIRING window without a publishing generation goes OFF
(R15; a generation left OPEN by a RESTART goes with it, log 16). A failure of either, by ERROR or by the deadline (R157): the
first since the window became LIVE posts CARRY_FAILED with the view line, and the window is HALTED, a CLOSED or CHECKING
generation of it being discarded and a check of it stopped (R16, R93); but while its publishing generation is STAMPING it sets
halt pending and keeps its state (R16). A later failure, one with halt pending set, and one of a HALTED or OFF window end the
carry alone. While RESTARTING no generation becomes eligible (R76), and the warm reset completion falls in the event after
which its conditions hold (R167). Stated with no SPACE entry and where, while RUNNING, the event ends there. -/
def Obligations.CarryAnswers : Prop :=
  ∀ (s : State) (e : Entry) (c : Carry), s.part.resetn = .high → s.part.Accounted → s.part.offerDue = false →
    (s.part.device = .running → s.part.engine ≠ none ∨ s.part.queue = []) →
    (∀ x ∈ s.part.hold, x.reason ≠ .space) → e ∈ s.part.down.table → e.expired = false →
    s.part.carry.inFlight.find? (fun x => x.request = e.req.id) = some c →
    let p := s.part
    let id := e.req.id
    let w := c.window
    let win := p.win w
    let bank := p.bank w
    let without (d : Down) : Part :=
      { p with down := d, carry := { p.carry with inFlight := p.carry.inFlight.filter fun x => x ≠ c } }
    let ended (i : Instr) (base : Part) : Prop := ∃ q : Part, exec i s = .next { s with part := q } ∧ AfterEvent base q
    let answer (a : MemAnswer) : Instr := match e.req.kind with | .carryRead => .carryReadAnswer id a | _ => .carryWriteAnswer id a
    (∀ data, e.req.kind = .carryRead → ∃ d : DownReq,
      ended (.carryReadAnswer id (.okay data))
        (let down := p.down.without id
         { p with
           nextId := p.nextId + 1, down := { down with carry := down.carry ++ [d] }
           carry := { p.carry with
             inFlight := p.carry.inFlight.map fun x => if x = c then { x with request := p.nextId } else x } })
      ∧ d.id = p.nextId ∧ d.kind = .carryWrite ∧ d.first = 0 ∧ d.beats = 8 ∧ d.window = some w ∧ d.origin = .part
      ∧ d.carryLine = some c.line ∧ d.flipMark = win.flipMark ∧ d.read.waits = false
      ∧ d.line = (match win.front with | .imageA => win.cfg.imageB | .imageB => win.cfg.imageA)
          + BitVec.ofNat 40 (64 * c.line)
      ∧ ∀ i < 64, byteAt d.bytes i = some (((data[i / 8]?.getD 0) >>> (8 * (i % 8))).setWidth 8))
    ∧ (∀ data, e.req.kind = .carryWrite → win.holdsBank = true →
      let cleared : Part := (without (p.down.without id)).setBank w { bank with carry := LineMap.remove bank.carry c.line }
      let held := p.hold.filter fun x => x.window = w && x.reason = .carry && x.line = .view c.line
      let emptied : Part := { cleared with carry := { cleared.carry with order := p.carry.order.filter fun x => x ≠ w } }
      let joins : Prop := p.device = .running ∧ win.cfg.trigger = .immediate ∧ win.pubIn .closed = true ∧ w ∉ p.queue
      let joined : Part := { emptied with queue := p.queue ++ [w] }
      (held = [] → LineMap.remove bank.carry c.line ≠ 0 → ended (.carryWriteAnswer id (.okay data)) cleared)
      ∧ (held = [] → LineMap.remove bank.carry c.line = 0 →
          (win.state = .live ∨ win.state = .retiring ∧ win.pubGen ≠ none →
            (¬joins → ended (.carryWriteAnswer id (.okay data)) emptied)
            ∧ (joins → p.engine ≠ none → ended (.carryWriteAnswer id (.okay data)) joined)
            ∧ (joins → p.engine = none → joined.TakesHead w (ended (.carryWriteAnswer id (.okay data)))))
          ∧ (win.state = .retiring → win.pubGen = none → win.haltPending = false →
              win.openGen = none ∨ p.device = .restarting →
              ended (.carryWriteAnswer id (.okay data)) (emptied.goingOff w)))
      ∧ (∀ x, held = [x] → LineMap.remove bank.carry c.line ≠ 0 → win.state = .live → win.pubUnseen = false →
          classify p.windows x.req = .flipProducerWrite w c.line →
          (∀ o, win.openGen = some o → MasterSet.has o.arrived x.req.master = false) →
          (∃ i < 64, byteAt (carriedBytes x.req) i ≠ none) →
          (∀ y ∈ p.carry.inFlight, y ≠ c → ¬(y.window = w ∧ y.line = c.line)) →
          let write : DownReq :=
            { id := p.nextId, kind := .redirectedWrite, line := win.backLine c.line, first := beatOf x.req.addr
              beats := x.req.beats, bytes := carriedBytes x.req
              origin := .upstream x.req.master x.req.tag (lineAt win.cfg.viewBase c.line), window := some w, gen := none
              carryLine := none, read := ⟨false, false, none, none, false⟩, flipMark := win.flipMark }
          let released := cleared.withoutHeld x
          ended (.carryWriteAnswer id (.okay data))
            { released.setBank w ⟨LineMap.add bank.dirty c.line, LineMap.remove bank.carry c.line⟩ with
              nextId := p.nextId + 1
              down := { released.down with forwarded := released.down.forwarded ++ [write] } }))
    ∧ ∀ i d, p.endsBadly e (answer .error) i d → e.req.kind = .carryRead ∨ e.req.kind = .carryWrite →
        let failed : Part := { without d with
          notify := p.notified w (.carryFailed (win.cfg.viewBase + BitVec.ofNat 40 (64 * c.line))) }
        (win.state = .live ∨ win.state = .retiring → win.haltPending = false → win.carryFailed = false →
          (win.pubGen = none → ended i (failed.halting w))
          ∧ ∀ g, win.pubGen = some g →
            (g.state = .closed ∨ g.state = .checking → (∀ k, p.engine = some k → k.window ≠ w) →
                ended i (failed.haltingClosed w))
            ∧ (g.state = .checking → (∃ k, p.engine = some k ∧ k.window = w ∧ k.phase = .checking) → p.queue = [] →
                ended i ((failed.unchecked w).haltingClosed w))
            ∧ (g.state = .stamping →
                ended i (failed.setWin w { win with carryFailed := true, haltPending := true })))
        ∧ (win.carryFailed = true ∨ win.haltPending = true ∨ win.state = .halted ∨ win.state = .off →
            ended i (without d))

/-- A late answer is discarded: its EXPIRED entry leaves the table, and the ports apart nothing else changes (R157). An answer
that matches no entry of the table is discarded and changes nothing, whichever of the answer rows brings it (R156). The expiry
of an outstanding entry at its deadline (R157): it is marked EXPIRED and stays in the table, and its request fails as though
memory had answered ERROR; stated here for the pass-reads, pass-writes and view reads, which are answered ERROR MEMORY with
MEMORY_ERROR posted, and for the other kinds beside their ERROR answers (ForwardedAnswers, GuardReadAnswer, DrainWriteAnswer,
StampWriteAnswer, CarryAnswers). No entry that is EXPIRED or whose deadline is not reached expires. -/
def Obligations.ExpiredLateAndUnmatched : Prop :=
  (∀ (s : State) (id : Nat) (a : MemAnswer), s.part.resetn = .high →
    ((∃ e ∈ s.part.down.table, e.req.id = id ∧ e.expired = true) → ∃ q : Part,
      exec (.lateAnswer id a) s = .next { s with part := q }
      ∧ AfterPorts { s.part with down := s.part.down.without id } q)
    ∧ exec (.unmatchedAnswer id a) s = .next s
    ∧ ((∀ e ∈ s.part.down.table, e.req.id ≠ id) →
      ∀ c ∈ [Instr.passThroughAnswer id a, .viewReadAnswer id a, .redirectedWriteAnswer id a, .guardReadAnswer id a,
        .drainWriteAnswer id a, .stampWriteAnswer id a, .carryReadAnswer id a, .carryWriteAnswer id a,
        .lateAnswer id a], exec c s = .next s))
  ∧ ∀ (s : State) (e : Entry) (m : MasterId) (t : Tag) (line : Addr), s.part.resetn = .high → s.part.Accounted →
    e ∈ s.part.down.table →
    (e.expired = false → e.deadline = s.part.timers.count → e.req.origin = .upstream m t line →
      e.req.kind = .passRead ∨ e.req.kind = .passWrite ∨ e.req.kind = .viewRead → ∃ q : Part,
      exec (.entryExpiry e.req.id) s = .next { s with part := q }
      ∧ AfterPorts
          { s.part.endedFor e.req.id m t (.error .memory) [] with
            notify := s.part.notifiedError m line
            down := { s.part.down with
              table := s.part.down.table.map fun x => if x.req.id = e.req.id then { x with expired := true } else x } } q)
    ∧ (e.expired = true ∨ e.deadline ≠ s.part.timers.count → exec (.entryExpiry e.req.id) s = .next s)

/-! ## Time and strobes -/

/-- The expiry of the oldest hold entry that is due (R128, R65): it leaves the queue with its demand entry, its request is
answered ERROR TIMEOUT, and HOLD_EXPIRED is posted with its reason. For CLOSE, while close has not been reached the arrival is
withdrawn: arrivals remaining rises by one and its master leaves the arrived set; when close is pending the arrival still
counts. The ports apart, nothing else changes; stated, for CLOSE, where no request of the window is held for FENCE. With
nothing due nothing changes. TIMEBASE_ADVANCE: the count advances by one, modulo 2^32, the divisor set applies from there
(R150; that the model keeps it as activeDivisor is its choice, log 11), and nothing else changes, when no deadline of the
moment is left (what the model does with one that is left is log 5), even when the new count is a deadline: each expiry is a
command of its own (the model's reading, log 6). -/
def Obligations.HoldExpiryAndTimebaseAdvance : Prop :=
  (∀ s : State, s.part.Ready → s.part.AtRest →
    (∀ e, s.part.hold.find? (fun e => e.deadline = s.part.timers.count) = some e →
      let p := s.part
      let win := p.win e.window
      let expired : Part :=
        { p with
          hold := p.hold.filter fun x => x.seq ≠ e.seq
          carry := { p.carry with demand := p.carry.demand.filter fun d => d.seq ≠ e.seq }
          openCount := p.openCount - 1
          responses := p.responses ++ [⟨e.req.master, e.req.tag, .error .timeout, []⟩]
          notify := p.notified e.window (.holdExpired e.req.master e.reason) }
      ∃ q : Part, exec .holdExpiry s = .next { s with part := q }
        ∧ (e.reason ≠ .close → AfterPorts expired q)
        ∧ (∀ g, e.reason = .close → win.openGen = some g → e.gen = some g.number → 0 < g.remaining →
            (∀ x ∈ p.hold, x.window = e.window → x.reason ≠ .fence) →
            AfterPorts
              (expired.setWin e.window { win with
                openGen := some { g with
                  remaining := g.remaining + 1, arrived := g.arrived &&& ~~~(1#64 <<< e.req.master.toNat) } }) q)
        ∧ (∀ g, e.reason = .close → win.openGen = some g → g.remaining = 0 → AfterPorts expired q))
    ∧ ((∀ e ∈ s.part.hold, e.deadline ≠ s.part.timers.count) → exec .holdExpiry s = .next s))
  ∧ ∀ s : State, s.part.resetn = .high → (∀ e ∈ s.part.hold, e.deadline ≠ s.part.timers.count) →
    (∀ e ∈ s.part.down.table, e.expired = true ∨ e.deadline ≠ s.part.timers.count) →
    exec .timebaseAdvance s = .next { s with
      part := { s.part with
        timers := { s.part.timers with
          count := BitVec.ofNat 32 (s.part.timers.count.toNat + 1), activeDivisor := s.part.timers.divisor } } }

/-- Samples of a strobe line (R97, R99 to R102, Table 6.1). At the inactive level the last level alone changes. At the active
level, differing from the last, the sample is an edge: while the device is RESTARTING the last level alone changes; otherwise
each LIVE or RETIRING window whose trigger is the line is acted on in ascending number: a CLOSED generation that is not in the
publish queue joins its tail when the carry map is empty, and LATE is posted when it is not; for a CHECKING, DRAINING or STAMPING
generation LATE is posted; nothing else changes. Stated while the engine is busy, so that it takes none of them. -/
def Obligations.StrobeSamples : Prop :=
  ∀ (s : State) (l : StrobeLine), s.part.resetn = .high →
    let st := s.part.strobe l
    let active : Level := match st.polarity with | .rising => .high | .falling => .low
    let inactive : Level := match st.polarity with | .rising => .low | .falling => .high
    let sampled (v : Level) : Part :=
      match l with
      | .stb0 => { s.part with stb0 := { st with last := v } }
      | .stb1 => { s.part with stb1 := { st with last := v } }
    exec (.strobeLevelChange l) s = .next { s with part := sampled inactive }
    ∧ (st.last ≠ active → s.part.device = .restarting → exec (.strobeEdge l) s = .next { s with part := sampled active })
    ∧ (st.last ≠ active → s.part.device = .running → s.part.engine ≠ none → s.part.offerDue = false → ∃ q : Part,
      exec (.strobeEdge l) s = .next { s with part := q }
      ∧ AfterPorts
          { sampled active with
            queue := s.part.queue ++ allWindows.filter (s.part.joinsAtEdge l)
            notify := (allWindows.filter (s.part.lateAtEdge l)).foldl
              (fun n w => n.post ⟨.late l, (s.part.win w).cfg.priority, (s.part.win w).cfg.target, some w⟩)
              s.part.notify } q)

/-! ## The part's own steps -/

/-- The part's own steps as commands (the model's reading, log 1). ENGINE_TAKE (R77, R78): the idle engine takes the window at
the head of the publish queue while the device is RUNNING, and the generation is CHECKING, the engine's work. For STAGED, and
for FLIP once every redirected write of the window has ended (R113), the check begins: with a guard operation the guard read of
the beat that holds the guard word is placed; with NONE it passes at once (R80), and the generation is DRAINING with a drain
write for each slot, in slot-list order (R83), or, with no slot, STAMPING, or is flipped (R114; of a window that is not OFF,
R5), its stamp write placed. A FLIP check waits while such a write is left. CARRY_BEGIN (R117, R118): while the device is
RUNNING and fewer than 4 are in flight, the carry of the chosen line is in flight with its carry read placed, and further ones
until 4 are in flight or no line can be chosen. The choice is the line of the oldest demand entry whose line is startable; with
none, of the first window of the carry order that has one, its lowest startable line. With nothing to begin it is
DOWNSTREAM_GRANT. DOWNSTREAM_GRANT (R155, R151): the arbiter's choice is granted first, and the grants go on until it has no
choice. The choice is the candidate of the first class that has one, in the cyclic order FORWARDED, PUBLISH, CARRY from the
class after the last granted one (log 35, where R155's sentences differ); a candidate is issuable by the four conditions of
R152 (logs 38 and 41 for the orders of R110; that a drain write waits behind every earlier consumer view read of its line, one
of an earlier life of the window, FLIP too, among them, is the model's choice beside R50, log 43), PUBLISH's the head of its
list, the others' the oldest. Where there is nothing to take or to grant, ENGINE_TAKE and DOWNSTREAM_GRANT change nothing. -/
def Obligations.PartsOwnSteps : Prop :=
  ∀ s : State, s.part.Ready → s.part.Accounted →
    (∀ w rest g, s.part.engine = none → s.part.offerDue = false → s.part.queue = w :: rest →
      (s.part.win w).pubGen = some g →
      let p := s.part
      let win := p.win w
      let left : Prop := (∃ x ∈ p.down.forwarded, x.kind = .redirectedWrite ∧ x.window = some w)
        ∨ ∃ x ∈ p.down.table, x.expired = false ∧ x.req.kind = .redirectedWrite ∧ x.req.window = some w
      let work (phase : Phase) (begun : Bool) (guardRead : Option Nat) (drainLength : Nat) : Work :=
        { window := w, gen := g.number, phase := phase, issued := 0, okay := 0, failed := 0, drainLength := drainLength
          firstFailed := none, begun := begun, guardRead := guardRead }
      let taken (k : Work) : Part := ({ p with queue := rest, engine := some k } : Part).setWin w
        { win with pubGen := some { g with state := k.phase.genState } }
      let begins : Prop := win.cfg.kind = .staged ∨ ¬left
      ∃ q : Part, exec .engineTake s = .next { s with part := q }
        ∧ (begins → win.cfg.guardOp ≠ .none →
            q.placed (p.guardReadOf w g.number)
            ∧ AfterPorts ((taken (work .checking true (some p.nextId) 0)).withPublish (p.guardReadOf w g.number)) q)
        ∧ (¬begins → AfterPorts (taken (work .checking false none 0)) q)
        ∧ (win.cfg.kind = .staged → win.cfg.guardOp = .none → g.slots ≠ [] →
            AfterPorts (({ p with queue := rest } : Part).draining (work .checking true none 0) g) q)
        ∧ (win.cfg.kind = .staged → win.cfg.guardOp = .none → g.slots = [] → win.cfg.stampPresent = true →
            ∃ d : DownReq, p.StampWriteOf w g.number d
              ∧ AfterPorts ((taken (work .stamping true none 0)).withPublish d) q)
        ∧ (win.cfg.kind = .flip → win.state ≠ .off → ¬left → win.cfg.guardOp = .none → win.cfg.stampPresent = true →
            (∀ x ∈ p.hold, x.window = w → x.reason ≠ .flipWait) →
            ∃ d : DownReq, p.StampWriteOf w g.number d
              ∧ AfterPorts
                  (({ p.flipped w g with queue := rest, engine := some (work .stamping true none 0) } : Part).withPublish d) q))
    ∧ (s.part.engine ≠ none ∨ s.part.queue = [] → exec .engineTake s = .next s)
    ∧ (∀ w l, s.part.carry.inFlight.length < 4 → s.part.CarryChoice w l → ∃ (q : Part) (d : DownReq),
      exec .carryBegin s = .next { s with part := q } ∧ AfterPorts s.part q
      ∧ ⟨w, l, s.part.nextId⟩ ∈ q.carry.inFlight
      ∧ q.placed d ∧ d.id = s.part.nextId ∧ d.kind = .carryRead ∧ d.first = 0 ∧ d.beats = 8 ∧ d.window = some w
      ∧ d.line = (match (s.part.win w).front with
            | .imageA => (s.part.win w).cfg.imageA
            | .imageB => (s.part.win w).cfg.imageB) + BitVec.ofNat 40 (64 * l)
      ∧ (4 ≤ q.carry.inFlight.length ∨ ∀ v m, ¬q.CarryChoice v m) ∧ ∀ r, ¬q.down.Choice r)
    ∧ (4 ≤ s.part.carry.inFlight.length ∨ (∀ w l, ¬s.part.CarryChoice w l) →
      exec .carryBegin s = exec .downstreamGrant s)
    ∧ (∀ r, s.part.down.Choice r → ∃ (q : Part) (e : Entry) (more : List Entry),
      exec .downstreamGrant s = .next { s with part := q } ∧ AfterPorts s.part q
      ∧ q.down.table = s.part.down.table ++ e :: more
      ∧ e = ⟨r, s.part.timers.count + s.part.timers.answerLimit.setWidth 32, false⟩ ∧ ∀ x, ¬q.down.Choice x)
    ∧ ((∀ r, ¬s.part.down.Choice r) → exec .downstreamGrant s = .next s)

/-! ## What holds at every moment -/

/-- At reset every law of Sys2Proof/Safety.lean holds. -/
def Obligations.LawsHoldAtReset : Prop :=
  State.reset.part.Lawful

/-- Every step keeps the limits of section 0.10 (R116, R124, R138, R139, R147, R151, R153), the line conflict law (R154) and
the account of the requests taken and not answered (R147, R149, R124, R133): whatever the command, each taken request is
answered once. -/
def Obligations.StepKeepsTheTrafficLaws : Prop :=
  ∀ s t : State, s.part.WithinLimits → s.part.LineLaw → s.part.Accounted → step s = .next t →
    t.part.WithinLimits ∧ t.part.LineLaw ∧ t.part.Accounted

/-- Every step keeps the generations of every window right: a LIVE window has an OPEN generation, an OFF or HALTED window has
none, and a publishing generation is past OPEN (R5, R21). -/
def Obligations.StepKeepsGenerationsRight : Prop :=
  ∀ s t : State, s.part.GensRight → step s = .next t → t.part.GensRight

/-- Every step keeps the busy engine on the publishing generation of its window, in the phase of that generation (R77). -/
def Obligations.StepKeepsTheEngineRight : Prop :=
  ∀ s t : State, s.part.EngineRight → step s = .next t → t.part.EngineRight

/-- Every step keeps the claimed ranges of the windows apart: a line is in those of at most one window (R4, R10). -/
def Obligations.StepKeepsClaimsApart : Prop :=
  ∀ s t : State, s.part.ClaimsApart → step s = .next t → t.part.ClaimsApart

/-- Every step keeps the publications right: an OFF or HALTED window has no publishing generation (R5); the publish queue holds at
most 16 windows, none twice, each with a CLOSED generation (R75); a DRAINING or STAMPING generation is the engine's work, and
so is a CHECKING one while the device is RUNNING (R77); a FLIP generation is never DRAINING (R80); a close pends only behind a
publishing generation (R66, R68); a halt only behind a STAMPING one (R16). -/
def Obligations.StepKeepsThePublications : Prop :=
  ∀ s t : State, s.part.Lawful → step s = .next t → t.part.PublicationsRight

/-- Every step keeps the staging store right: the free count and the slots held make 512 (R19); no generation has two slots for
a line (R20); a FLIP window and a STAMPING generation hold none (R3, R85); and the drain's counts agree with its slots and its
drain writes (R83 to R87). -/
def Obligations.StepKeepsTheStore : Prop :=
  ∀ s t : State, s.part.Lawful → step s = .next t → t.part.StoreRight

/-- Every step keeps the carry work right: no bank is held twice (R10); the carry order is the windows with carry work, at most
4 (R116); the demand list stands for the CARRY entries (R116, R119); a carry in flight is of a line with its carry bit set, is
the only one of its line, and waits for its carry read or carry write (R116, R118); a HALTED window, and one whose generation is
eligible or CHECKING, has no carry work (R16, R76, R112). -/
def Obligations.StepKeepsTheCarryWork : Prop :=
  ∀ s t : State, s.part.Lawful → step s = .next t → t.part.CarryRight

/-- Every step keeps the barrier right: arrivals remaining and the arrived set make the creation count until close is reached,
and arrivals remaining is 0 exactly when close pends (R61, R66, R71); each CLOSE entry is for its window's OPEN generation,
whose arrived set has its master, and no master has two (R61, R64); each held request is a write of the line its entry names, in
a LIVE window, or in a RETIRING one held for CLOSE (Table 8.1, R130). -/
def Obligations.StepKeepsTheBarrier : Prop :=
  ∀ s t : State, s.part.Lawful → step s = .next t → t.part.BarrierRight

/-- Every taken request is answered once, or is forgotten by a cold reset (R147, R149, R56): at each step the requests owed an
answer and those answered in it are, each counted as often as it occurs, those that were owed and the one the step takes; and
the answers given before stand as they were. -/
def Obligations.EveryTakenRequestIsAnsweredOnce : Prop :=
  ∀ s t : State, s.part.Accounted → step s = .next t →
    ((∃ rest, s.pending = .coldReset :: rest) → t.part.owing = [] ∧ t.part.responses = s.part.responses)
    ∧ ((∀ rest, s.pending ≠ .coldReset :: rest) → ∃ answers : List Response,
        t.part.responses = s.part.responses ++ answers
        ∧ (t.part.owing ++ answers.map fun r => (r.master, r.tag)).Perm (s.part.owing ++ s.taking))
end

