-- ==== Sys2Proof/Laws/State.lean ====
section
/-! SUPPORT. What each elementary update of the part leaves and sets, one lemma a field. -/

namespace Sys2Proof.Machine

variable (p : Part)

/-! ### `setWin` -/

@[simp] theorem Part.setWin_resetn (w : WinIdx) (win : Window) : (p.setWin w win).resetn = p.resetn := rfl
@[simp] theorem Part.setWin_device (w : WinIdx) (win : Window) : (p.setWin w win).device = p.device := rfl
@[simp] theorem Part.setWin_windows (w : WinIdx) (win : Window)
    : (p.setWin w win).windows = p.windows.set w win := rfl
@[simp] theorem Part.setWin_freeSlots (w : WinIdx) (win : Window) : (p.setWin w win).freeSlots = p.freeSlots := rfl
@[simp] theorem Part.setWin_offerDue (w : WinIdx) (win : Window) : (p.setWin w win).offerDue = p.offerDue := rfl
@[simp] theorem Part.setWin_queue (w : WinIdx) (win : Window) : (p.setWin w win).queue = p.queue := rfl
@[simp] theorem Part.setWin_engine (w : WinIdx) (win : Window) : (p.setWin w win).engine = p.engine := rfl
@[simp] theorem Part.setWin_stb0 (w : WinIdx) (win : Window) : (p.setWin w win).stb0 = p.stb0 := rfl
@[simp] theorem Part.setWin_stb1 (w : WinIdx) (win : Window) : (p.setWin w win).stb1 = p.stb1 := rfl
@[simp] theorem Part.setWin_banks (w : WinIdx) (win : Window) : (p.setWin w win).banks = p.banks := rfl
@[simp] theorem Part.setWin_carry (w : WinIdx) (win : Window) : (p.setWin w win).carry = p.carry := rfl
@[simp] theorem Part.setWin_hold (w : WinIdx) (win : Window) : (p.setWin w win).hold = p.hold := rfl
@[simp] theorem Part.setWin_notify (w : WinIdx) (win : Window) : (p.setWin w win).notify = p.notify := rfl
@[simp] theorem Part.setWin_openCount (w : WinIdx) (win : Window) : (p.setWin w win).openCount = p.openCount := rfl
@[simp] theorem Part.setWin_down (w : WinIdx) (win : Window) : (p.setWin w win).down = p.down := rfl
@[simp] theorem Part.setWin_timers (w : WinIdx) (win : Window) : (p.setWin w win).timers = p.timers := rfl
@[simp] theorem Part.setWin_msel (w : WinIdx) (win : Window) : (p.setWin w win).msel = p.msel := rfl
@[simp] theorem Part.setWin_link (w : WinIdx) (win : Window) : (p.setWin w win).link = p.link := rfl
@[simp] theorem Part.setWin_incoming (w : WinIdx) (win : Window) : (p.setWin w win).incoming = p.incoming := rfl
@[simp] theorem Part.setWin_responses (w : WinIdx) (win : Window) : (p.setWin w win).responses = p.responses := rfl
@[simp] theorem Part.setWin_nextSeq (w : WinIdx) (win : Window) : (p.setWin w win).nextSeq = p.nextSeq := rfl
@[simp] theorem Part.setWin_nextId (w : WinIdx) (win : Window) : (p.setWin w win).nextId = p.nextId := rfl

/-! ### `setBank` -/

@[simp] theorem Part.setBank_resetn (w : WinIdx) (b : Bank) : (p.setBank w b).resetn = p.resetn := rfl
@[simp] theorem Part.setBank_device (w : WinIdx) (b : Bank) : (p.setBank w b).device = p.device := rfl
@[simp] theorem Part.setBank_windows (w : WinIdx) (b : Bank) : (p.setBank w b).windows = p.windows := rfl
@[simp] theorem Part.setBank_freeSlots (w : WinIdx) (b : Bank) : (p.setBank w b).freeSlots = p.freeSlots := rfl
@[simp] theorem Part.setBank_offerDue (w : WinIdx) (b : Bank) : (p.setBank w b).offerDue = p.offerDue := rfl
@[simp] theorem Part.setBank_queue (w : WinIdx) (b : Bank) : (p.setBank w b).queue = p.queue := rfl
@[simp] theorem Part.setBank_engine (w : WinIdx) (b : Bank) : (p.setBank w b).engine = p.engine := rfl
@[simp] theorem Part.setBank_stb0 (w : WinIdx) (b : Bank) : (p.setBank w b).stb0 = p.stb0 := rfl
@[simp] theorem Part.setBank_stb1 (w : WinIdx) (b : Bank) : (p.setBank w b).stb1 = p.stb1 := rfl
@[simp] theorem Part.setBank_banks (w : WinIdx) (b : Bank)
    : (p.setBank w b).banks = p.banks.set (p.win w).cfg.bank b := rfl
@[simp] theorem Part.setBank_carry (w : WinIdx) (b : Bank) : (p.setBank w b).carry = p.carry := rfl
@[simp] theorem Part.setBank_hold (w : WinIdx) (b : Bank) : (p.setBank w b).hold = p.hold := rfl
@[simp] theorem Part.setBank_notify (w : WinIdx) (b : Bank) : (p.setBank w b).notify = p.notify := rfl
@[simp] theorem Part.setBank_openCount (w : WinIdx) (b : Bank) : (p.setBank w b).openCount = p.openCount := rfl
@[simp] theorem Part.setBank_down (w : WinIdx) (b : Bank) : (p.setBank w b).down = p.down := rfl
@[simp] theorem Part.setBank_timers (w : WinIdx) (b : Bank) : (p.setBank w b).timers = p.timers := rfl
@[simp] theorem Part.setBank_msel (w : WinIdx) (b : Bank) : (p.setBank w b).msel = p.msel := rfl
@[simp] theorem Part.setBank_link (w : WinIdx) (b : Bank) : (p.setBank w b).link = p.link := rfl
@[simp] theorem Part.setBank_incoming (w : WinIdx) (b : Bank) : (p.setBank w b).incoming = p.incoming := rfl
@[simp] theorem Part.setBank_responses (w : WinIdx) (b : Bank) : (p.setBank w b).responses = p.responses := rfl
@[simp] theorem Part.setBank_nextSeq (w : WinIdx) (b : Bank) : (p.setBank w b).nextSeq = p.nextSeq := rfl
@[simp] theorem Part.setBank_nextId (w : WinIdx) (b : Bank) : (p.setBank w b).nextId = p.nextId := rfl

/-! ### `respond` -/

@[simp] theorem Part.respond_resetn (m : MasterId) (t : Tag) (st : RespStatus) (data : List Beat)
    : (p.respond m t st data).resetn = p.resetn := rfl
@[simp] theorem Part.respond_device (m : MasterId) (t : Tag) (st : RespStatus) (data : List Beat)
    : (p.respond m t st data).device = p.device := rfl
@[simp] theorem Part.respond_windows (m : MasterId) (t : Tag) (st : RespStatus) (data : List Beat)
    : (p.respond m t st data).windows = p.windows := rfl
@[simp] theorem Part.respond_freeSlots (m : MasterId) (t : Tag) (st : RespStatus) (data : List Beat)
    : (p.respond m t st data).freeSlots = p.freeSlots := rfl
@[simp] theorem Part.respond_offerDue (m : MasterId) (t : Tag) (st : RespStatus) (data : List Beat)
    : (p.respond m t st data).offerDue = p.offerDue := rfl
@[simp] theorem Part.respond_queue (m : MasterId) (t : Tag) (st : RespStatus) (data : List Beat)
    : (p.respond m t st data).queue = p.queue := rfl
@[simp] theorem Part.respond_engine (m : MasterId) (t : Tag) (st : RespStatus) (data : List Beat)
    : (p.respond m t st data).engine = p.engine := rfl
@[simp] theorem Part.respond_stb0 (m : MasterId) (t : Tag) (st : RespStatus) (data : List Beat)
    : (p.respond m t st data).stb0 = p.stb0 := rfl
@[simp] theorem Part.respond_stb1 (m : MasterId) (t : Tag) (st : RespStatus) (data : List Beat)
    : (p.respond m t st data).stb1 = p.stb1 := rfl
@[simp] theorem Part.respond_banks (m : MasterId) (t : Tag) (st : RespStatus) (data : List Beat)
    : (p.respond m t st data).banks = p.banks := rfl
@[simp] theorem Part.respond_carry (m : MasterId) (t : Tag) (st : RespStatus) (data : List Beat)
    : (p.respond m t st data).carry = p.carry := rfl
@[simp] theorem Part.respond_hold (m : MasterId) (t : Tag) (st : RespStatus) (data : List Beat)
    : (p.respond m t st data).hold = p.hold := rfl
@[simp] theorem Part.respond_notify (m : MasterId) (t : Tag) (st : RespStatus) (data : List Beat)
    : (p.respond m t st data).notify = p.notify := rfl
@[simp] theorem Part.respond_openCount (m : MasterId) (t : Tag) (st : RespStatus) (data : List Beat)
    : (p.respond m t st data).openCount = p.openCount - 1 := rfl
@[simp] theorem Part.respond_down (m : MasterId) (t : Tag) (st : RespStatus) (data : List Beat)
    : (p.respond m t st data).down = p.down := rfl
@[simp] theorem Part.respond_timers (m : MasterId) (t : Tag) (st : RespStatus) (data : List Beat)
    : (p.respond m t st data).timers = p.timers := rfl
@[simp] theorem Part.respond_msel (m : MasterId) (t : Tag) (st : RespStatus) (data : List Beat)
    : (p.respond m t st data).msel = p.msel := rfl
@[simp] theorem Part.respond_link (m : MasterId) (t : Tag) (st : RespStatus) (data : List Beat)
    : (p.respond m t st data).link = p.link := rfl
@[simp] theorem Part.respond_incoming (m : MasterId) (t : Tag) (st : RespStatus) (data : List Beat)
    : (p.respond m t st data).incoming = p.incoming := rfl
@[simp] theorem Part.respond_responses (m : MasterId) (t : Tag) (st : RespStatus) (data : List Beat)
    : (p.respond m t st data).responses = p.responses ++ [⟨m, t, st, data⟩] := rfl
@[simp] theorem Part.respond_nextSeq (m : MasterId) (t : Tag) (st : RespStatus) (data : List Beat)
    : (p.respond m t st data).nextSeq = p.nextSeq := rfl
@[simp] theorem Part.respond_nextId (m : MasterId) (t : Tag) (st : RespStatus) (data : List Beat)
    : (p.respond m t st data).nextId = p.nextId := rfl

/-! ### `post` -/

@[simp] theorem Part.post_resetn (e : Event) : (p.post e).resetn = p.resetn := rfl
@[simp] theorem Part.post_device (e : Event) : (p.post e).device = p.device := rfl
@[simp] theorem Part.post_windows (e : Event) : (p.post e).windows = p.windows := rfl
@[simp] theorem Part.post_freeSlots (e : Event) : (p.post e).freeSlots = p.freeSlots := rfl
@[simp] theorem Part.post_offerDue (e : Event) : (p.post e).offerDue = p.offerDue := rfl
@[simp] theorem Part.post_queue (e : Event) : (p.post e).queue = p.queue := rfl
@[simp] theorem Part.post_engine (e : Event) : (p.post e).engine = p.engine := rfl
@[simp] theorem Part.post_stb0 (e : Event) : (p.post e).stb0 = p.stb0 := rfl
@[simp] theorem Part.post_stb1 (e : Event) : (p.post e).stb1 = p.stb1 := rfl
@[simp] theorem Part.post_banks (e : Event) : (p.post e).banks = p.banks := rfl
@[simp] theorem Part.post_carry (e : Event) : (p.post e).carry = p.carry := rfl
@[simp] theorem Part.post_hold (e : Event) : (p.post e).hold = p.hold := rfl
@[simp] theorem Part.post_notify (e : Event) : (p.post e).notify = p.notify.post e := rfl
@[simp] theorem Part.post_openCount (e : Event) : (p.post e).openCount = p.openCount := rfl
@[simp] theorem Part.post_down (e : Event) : (p.post e).down = p.down := rfl
@[simp] theorem Part.post_timers (e : Event) : (p.post e).timers = p.timers := rfl
@[simp] theorem Part.post_msel (e : Event) : (p.post e).msel = p.msel := rfl
@[simp] theorem Part.post_link (e : Event) : (p.post e).link = p.link := rfl
@[simp] theorem Part.post_incoming (e : Event) : (p.post e).incoming = p.incoming := rfl
@[simp] theorem Part.post_responses (e : Event) : (p.post e).responses = p.responses := rfl
@[simp] theorem Part.post_nextSeq (e : Event) : (p.post e).nextSeq = p.nextSeq := rfl
@[simp] theorem Part.post_nextId (e : Event) : (p.post e).nextId = p.nextId := rfl

/-! ### `addHeld` -/

@[simp] theorem Part.addHeld_resetn (t : Taken) (why : Reason) (w : WinIdx) (line : HoldLine) (gen : Option GenNum)
    : (p.addHeld t why w line gen).resetn = p.resetn := rfl
@[simp] theorem Part.addHeld_device (t : Taken) (why : Reason) (w : WinIdx) (line : HoldLine) (gen : Option GenNum)
    : (p.addHeld t why w line gen).device = p.device := rfl
@[simp] theorem Part.addHeld_windows (t : Taken) (why : Reason) (w : WinIdx) (line : HoldLine) (gen : Option GenNum)
    : (p.addHeld t why w line gen).windows = p.windows := rfl
@[simp] theorem Part.addHeld_freeSlots (t : Taken) (why : Reason) (w : WinIdx) (line : HoldLine) (gen : Option GenNum)
    : (p.addHeld t why w line gen).freeSlots = p.freeSlots := rfl
@[simp] theorem Part.addHeld_offerDue (t : Taken) (why : Reason) (w : WinIdx) (line : HoldLine) (gen : Option GenNum)
    : (p.addHeld t why w line gen).offerDue = p.offerDue := rfl
@[simp] theorem Part.addHeld_queue (t : Taken) (why : Reason) (w : WinIdx) (line : HoldLine) (gen : Option GenNum)
    : (p.addHeld t why w line gen).queue = p.queue := rfl
@[simp] theorem Part.addHeld_engine (t : Taken) (why : Reason) (w : WinIdx) (line : HoldLine) (gen : Option GenNum)
    : (p.addHeld t why w line gen).engine = p.engine := rfl
@[simp] theorem Part.addHeld_stb0 (t : Taken) (why : Reason) (w : WinIdx) (line : HoldLine) (gen : Option GenNum)
    : (p.addHeld t why w line gen).stb0 = p.stb0 := rfl
@[simp] theorem Part.addHeld_stb1 (t : Taken) (why : Reason) (w : WinIdx) (line : HoldLine) (gen : Option GenNum)
    : (p.addHeld t why w line gen).stb1 = p.stb1 := rfl
@[simp] theorem Part.addHeld_banks (t : Taken) (why : Reason) (w : WinIdx) (line : HoldLine) (gen : Option GenNum)
    : (p.addHeld t why w line gen).banks = p.banks := rfl
@[simp] theorem Part.addHeld_carry (t : Taken) (why : Reason) (w : WinIdx) (line : HoldLine) (gen : Option GenNum)
    : (p.addHeld t why w line gen).carry = p.carry := rfl
@[simp] theorem Part.addHeld_hold (t : Taken) (why : Reason) (w : WinIdx) (line : HoldLine) (gen : Option GenNum)
    : (p.addHeld t why w line gen).hold = insertHeld ⟨t.req, why, w, line, t.takeTime, t.deadline, gen, t.seq⟩ p.hold := rfl
@[simp] theorem Part.addHeld_notify (t : Taken) (why : Reason) (w : WinIdx) (line : HoldLine) (gen : Option GenNum)
    : (p.addHeld t why w line gen).notify = p.notify := rfl
@[simp] theorem Part.addHeld_openCount (t : Taken) (why : Reason) (w : WinIdx) (line : HoldLine) (gen : Option GenNum)
    : (p.addHeld t why w line gen).openCount = p.openCount := rfl
@[simp] theorem Part.addHeld_down (t : Taken) (why : Reason) (w : WinIdx) (line : HoldLine) (gen : Option GenNum)
    : (p.addHeld t why w line gen).down = p.down := rfl
@[simp] theorem Part.addHeld_timers (t : Taken) (why : Reason) (w : WinIdx) (line : HoldLine) (gen : Option GenNum)
    : (p.addHeld t why w line gen).timers = p.timers := rfl
@[simp] theorem Part.addHeld_msel (t : Taken) (why : Reason) (w : WinIdx) (line : HoldLine) (gen : Option GenNum)
    : (p.addHeld t why w line gen).msel = p.msel := rfl
@[simp] theorem Part.addHeld_link (t : Taken) (why : Reason) (w : WinIdx) (line : HoldLine) (gen : Option GenNum)
    : (p.addHeld t why w line gen).link = p.link := rfl
@[simp] theorem Part.addHeld_incoming (t : Taken) (why : Reason) (w : WinIdx) (line : HoldLine) (gen : Option GenNum)
    : (p.addHeld t why w line gen).incoming = p.incoming := rfl
@[simp] theorem Part.addHeld_responses (t : Taken) (why : Reason) (w : WinIdx) (line : HoldLine) (gen : Option GenNum)
    : (p.addHeld t why w line gen).responses = p.responses := rfl
@[simp] theorem Part.addHeld_nextSeq (t : Taken) (why : Reason) (w : WinIdx) (line : HoldLine) (gen : Option GenNum)
    : (p.addHeld t why w line gen).nextSeq = p.nextSeq := rfl
@[simp] theorem Part.addHeld_nextId (t : Taken) (why : Reason) (w : WinIdx) (line : HoldLine) (gen : Option GenNum)
    : (p.addHeld t why w line gen).nextId = p.nextId := rfl

/-! ### `dropHeld` -/

@[simp] theorem Part.dropHeld_resetn (seq : Nat) : (p.dropHeld seq).resetn = p.resetn := rfl
@[simp] theorem Part.dropHeld_device (seq : Nat) : (p.dropHeld seq).device = p.device := rfl
@[simp] theorem Part.dropHeld_windows (seq : Nat) : (p.dropHeld seq).windows = p.windows := rfl
@[simp] theorem Part.dropHeld_freeSlots (seq : Nat) : (p.dropHeld seq).freeSlots = p.freeSlots := rfl
@[simp] theorem Part.dropHeld_offerDue (seq : Nat) : (p.dropHeld seq).offerDue = p.offerDue := rfl
@[simp] theorem Part.dropHeld_queue (seq : Nat) : (p.dropHeld seq).queue = p.queue := rfl
@[simp] theorem Part.dropHeld_engine (seq : Nat) : (p.dropHeld seq).engine = p.engine := rfl
@[simp] theorem Part.dropHeld_stb0 (seq : Nat) : (p.dropHeld seq).stb0 = p.stb0 := rfl
@[simp] theorem Part.dropHeld_stb1 (seq : Nat) : (p.dropHeld seq).stb1 = p.stb1 := rfl
@[simp] theorem Part.dropHeld_banks (seq : Nat) : (p.dropHeld seq).banks = p.banks := rfl
@[simp] theorem Part.dropHeld_carry (seq : Nat)
    : (p.dropHeld seq).carry = { p.carry with demand := p.carry.demand.filter fun d => d.seq ≠ seq } := rfl
@[simp] theorem Part.dropHeld_hold (seq : Nat) : (p.dropHeld seq).hold = p.hold.filter fun e => e.seq ≠ seq := rfl
@[simp] theorem Part.dropHeld_notify (seq : Nat) : (p.dropHeld seq).notify = p.notify := rfl
@[simp] theorem Part.dropHeld_openCount (seq : Nat) : (p.dropHeld seq).openCount = p.openCount := rfl
@[simp] theorem Part.dropHeld_down (seq : Nat) : (p.dropHeld seq).down = p.down := rfl
@[simp] theorem Part.dropHeld_timers (seq : Nat) : (p.dropHeld seq).timers = p.timers := rfl
@[simp] theorem Part.dropHeld_msel (seq : Nat) : (p.dropHeld seq).msel = p.msel := rfl
@[simp] theorem Part.dropHeld_link (seq : Nat) : (p.dropHeld seq).link = p.link := rfl
@[simp] theorem Part.dropHeld_incoming (seq : Nat) : (p.dropHeld seq).incoming = p.incoming := rfl
@[simp] theorem Part.dropHeld_responses (seq : Nat) : (p.dropHeld seq).responses = p.responses := rfl
@[simp] theorem Part.dropHeld_nextSeq (seq : Nat) : (p.dropHeld seq).nextSeq = p.nextSeq := rfl
@[simp] theorem Part.dropHeld_nextId (seq : Nat) : (p.dropHeld seq).nextId = p.nextId := rfl

/-! ### `freeSlotCount` -/

@[simp] theorem Part.freeSlotCount_resetn (n : Nat) : (p.freeSlotCount n).resetn = p.resetn := rfl
@[simp] theorem Part.freeSlotCount_device (n : Nat) : (p.freeSlotCount n).device = p.device := rfl
@[simp] theorem Part.freeSlotCount_windows (n : Nat) : (p.freeSlotCount n).windows = p.windows := rfl
@[simp] theorem Part.freeSlotCount_freeSlots (n : Nat) : (p.freeSlotCount n).freeSlots = p.freeSlots + n := rfl
@[simp] theorem Part.freeSlotCount_offerDue (n : Nat)
    : (p.freeSlotCount n).offerDue = (p.offerDue || decide (0 < n)) := rfl
@[simp] theorem Part.freeSlotCount_queue (n : Nat) : (p.freeSlotCount n).queue = p.queue := rfl
@[simp] theorem Part.freeSlotCount_engine (n : Nat) : (p.freeSlotCount n).engine = p.engine := rfl
@[simp] theorem Part.freeSlotCount_stb0 (n : Nat) : (p.freeSlotCount n).stb0 = p.stb0 := rfl
@[simp] theorem Part.freeSlotCount_stb1 (n : Nat) : (p.freeSlotCount n).stb1 = p.stb1 := rfl
@[simp] theorem Part.freeSlotCount_banks (n : Nat) : (p.freeSlotCount n).banks = p.banks := rfl
@[simp] theorem Part.freeSlotCount_carry (n : Nat) : (p.freeSlotCount n).carry = p.carry := rfl
@[simp] theorem Part.freeSlotCount_hold (n : Nat) : (p.freeSlotCount n).hold = p.hold := rfl
@[simp] theorem Part.freeSlotCount_notify (n : Nat) : (p.freeSlotCount n).notify = p.notify := rfl
@[simp] theorem Part.freeSlotCount_openCount (n : Nat) : (p.freeSlotCount n).openCount = p.openCount := rfl
@[simp] theorem Part.freeSlotCount_down (n : Nat) : (p.freeSlotCount n).down = p.down := rfl
@[simp] theorem Part.freeSlotCount_timers (n : Nat) : (p.freeSlotCount n).timers = p.timers := rfl
@[simp] theorem Part.freeSlotCount_msel (n : Nat) : (p.freeSlotCount n).msel = p.msel := rfl
@[simp] theorem Part.freeSlotCount_link (n : Nat) : (p.freeSlotCount n).link = p.link := rfl
@[simp] theorem Part.freeSlotCount_incoming (n : Nat) : (p.freeSlotCount n).incoming = p.incoming := rfl
@[simp] theorem Part.freeSlotCount_responses (n : Nat) : (p.freeSlotCount n).responses = p.responses := rfl
@[simp] theorem Part.freeSlotCount_nextSeq (n : Nat) : (p.freeSlotCount n).nextSeq = p.nextSeq := rfl
@[simp] theorem Part.freeSlotCount_nextId (n : Nat) : (p.freeSlotCount n).nextId = p.nextId := rfl

/-! ### `endWaits` -/

@[simp] theorem Part.endWaits_resetn (w : WinIdx) (lines : Addr → Bool)
    : (p.endWaits w lines).resetn = p.resetn := rfl
@[simp] theorem Part.endWaits_device (w : WinIdx) (lines : Addr → Bool)
    : (p.endWaits w lines).device = p.device := rfl
@[simp] theorem Part.endWaits_windows (w : WinIdx) (lines : Addr → Bool)
    : (p.endWaits w lines).windows = p.windows := rfl
@[simp] theorem Part.endWaits_freeSlots (w : WinIdx) (lines : Addr → Bool)
    : (p.endWaits w lines).freeSlots = p.freeSlots := rfl
@[simp] theorem Part.endWaits_offerDue (w : WinIdx) (lines : Addr → Bool)
    : (p.endWaits w lines).offerDue = p.offerDue := rfl
@[simp] theorem Part.endWaits_queue (w : WinIdx) (lines : Addr → Bool) : (p.endWaits w lines).queue = p.queue := rfl
@[simp] theorem Part.endWaits_engine (w : WinIdx) (lines : Addr → Bool)
    : (p.endWaits w lines).engine = p.engine := rfl
@[simp] theorem Part.endWaits_stb0 (w : WinIdx) (lines : Addr → Bool) : (p.endWaits w lines).stb0 = p.stb0 := rfl
@[simp] theorem Part.endWaits_stb1 (w : WinIdx) (lines : Addr → Bool) : (p.endWaits w lines).stb1 = p.stb1 := rfl
@[simp] theorem Part.endWaits_banks (w : WinIdx) (lines : Addr → Bool) : (p.endWaits w lines).banks = p.banks := rfl
@[simp] theorem Part.endWaits_carry (w : WinIdx) (lines : Addr → Bool) : (p.endWaits w lines).carry = p.carry := rfl
@[simp] theorem Part.endWaits_hold (w : WinIdx) (lines : Addr → Bool) : (p.endWaits w lines).hold = p.hold := rfl
@[simp] theorem Part.endWaits_notify (w : WinIdx) (lines : Addr → Bool)
    : (p.endWaits w lines).notify = p.notify := rfl
@[simp] theorem Part.endWaits_openCount (w : WinIdx) (lines : Addr → Bool)
    : (p.endWaits w lines).openCount = p.openCount := rfl
@[simp] theorem Part.endWaits_timers (w : WinIdx) (lines : Addr → Bool)
    : (p.endWaits w lines).timers = p.timers := rfl
@[simp] theorem Part.endWaits_msel (w : WinIdx) (lines : Addr → Bool) : (p.endWaits w lines).msel = p.msel := rfl
@[simp] theorem Part.endWaits_link (w : WinIdx) (lines : Addr → Bool) : (p.endWaits w lines).link = p.link := rfl
@[simp] theorem Part.endWaits_incoming (w : WinIdx) (lines : Addr → Bool)
    : (p.endWaits w lines).incoming = p.incoming := rfl
@[simp] theorem Part.endWaits_responses (w : WinIdx) (lines : Addr → Bool)
    : (p.endWaits w lines).responses = p.responses := rfl
@[simp] theorem Part.endWaits_nextSeq (w : WinIdx) (lines : Addr → Bool)
    : (p.endWaits w lines).nextSeq = p.nextSeq := rfl
@[simp] theorem Part.endWaits_nextId (w : WinIdx) (lines : Addr → Bool)
    : (p.endWaits w lines).nextId = p.nextId := rfl

/-! ### `leaveQueue` -/

@[simp] theorem Part.leaveQueue_resetn (w : WinIdx) : (p.leaveQueue w).resetn = p.resetn := rfl
@[simp] theorem Part.leaveQueue_device (w : WinIdx) : (p.leaveQueue w).device = p.device := rfl
@[simp] theorem Part.leaveQueue_windows (w : WinIdx) : (p.leaveQueue w).windows = p.windows := rfl
@[simp] theorem Part.leaveQueue_freeSlots (w : WinIdx) : (p.leaveQueue w).freeSlots = p.freeSlots := rfl
@[simp] theorem Part.leaveQueue_offerDue (w : WinIdx) : (p.leaveQueue w).offerDue = p.offerDue := rfl
@[simp] theorem Part.leaveQueue_queue (w : WinIdx) : (p.leaveQueue w).queue = p.queue.filter fun x => x ≠ w := rfl
@[simp] theorem Part.leaveQueue_engine (w : WinIdx) : (p.leaveQueue w).engine = p.engine := rfl
@[simp] theorem Part.leaveQueue_stb0 (w : WinIdx) : (p.leaveQueue w).stb0 = p.stb0 := rfl
@[simp] theorem Part.leaveQueue_stb1 (w : WinIdx) : (p.leaveQueue w).stb1 = p.stb1 := rfl
@[simp] theorem Part.leaveQueue_banks (w : WinIdx) : (p.leaveQueue w).banks = p.banks := rfl
@[simp] theorem Part.leaveQueue_carry (w : WinIdx) : (p.leaveQueue w).carry = p.carry := rfl
@[simp] theorem Part.leaveQueue_hold (w : WinIdx) : (p.leaveQueue w).hold = p.hold := rfl
@[simp] theorem Part.leaveQueue_notify (w : WinIdx) : (p.leaveQueue w).notify = p.notify := rfl
@[simp] theorem Part.leaveQueue_openCount (w : WinIdx) : (p.leaveQueue w).openCount = p.openCount := rfl
@[simp] theorem Part.leaveQueue_down (w : WinIdx) : (p.leaveQueue w).down = p.down := rfl
@[simp] theorem Part.leaveQueue_timers (w : WinIdx) : (p.leaveQueue w).timers = p.timers := rfl
@[simp] theorem Part.leaveQueue_msel (w : WinIdx) : (p.leaveQueue w).msel = p.msel := rfl
@[simp] theorem Part.leaveQueue_link (w : WinIdx) : (p.leaveQueue w).link = p.link := rfl
@[simp] theorem Part.leaveQueue_incoming (w : WinIdx) : (p.leaveQueue w).incoming = p.incoming := rfl
@[simp] theorem Part.leaveQueue_responses (w : WinIdx) : (p.leaveQueue w).responses = p.responses := rfl
@[simp] theorem Part.leaveQueue_nextSeq (w : WinIdx) : (p.leaveQueue w).nextSeq = p.nextSeq := rfl
@[simp] theorem Part.leaveQueue_nextId (w : WinIdx) : (p.leaveQueue w).nextId = p.nextId := rfl

/-! ### `joinQueue` -/

@[simp] theorem Part.joinQueue_resetn (w : WinIdx) : (p.joinQueue w).resetn = p.resetn := rfl
@[simp] theorem Part.joinQueue_device (w : WinIdx) : (p.joinQueue w).device = p.device := rfl
@[simp] theorem Part.joinQueue_windows (w : WinIdx) : (p.joinQueue w).windows = p.windows := rfl
@[simp] theorem Part.joinQueue_freeSlots (w : WinIdx) : (p.joinQueue w).freeSlots = p.freeSlots := rfl
@[simp] theorem Part.joinQueue_offerDue (w : WinIdx) : (p.joinQueue w).offerDue = p.offerDue := rfl
@[simp] theorem Part.joinQueue_queue (w : WinIdx) : (p.joinQueue w).queue = p.queue ++ [w] := rfl
@[simp] theorem Part.joinQueue_engine (w : WinIdx) : (p.joinQueue w).engine = p.engine := rfl
@[simp] theorem Part.joinQueue_stb0 (w : WinIdx) : (p.joinQueue w).stb0 = p.stb0 := rfl
@[simp] theorem Part.joinQueue_stb1 (w : WinIdx) : (p.joinQueue w).stb1 = p.stb1 := rfl
@[simp] theorem Part.joinQueue_banks (w : WinIdx) : (p.joinQueue w).banks = p.banks := rfl
@[simp] theorem Part.joinQueue_carry (w : WinIdx) : (p.joinQueue w).carry = p.carry := rfl
@[simp] theorem Part.joinQueue_hold (w : WinIdx) : (p.joinQueue w).hold = p.hold := rfl
@[simp] theorem Part.joinQueue_notify (w : WinIdx) : (p.joinQueue w).notify = p.notify := rfl
@[simp] theorem Part.joinQueue_openCount (w : WinIdx) : (p.joinQueue w).openCount = p.openCount := rfl
@[simp] theorem Part.joinQueue_down (w : WinIdx) : (p.joinQueue w).down = p.down := rfl
@[simp] theorem Part.joinQueue_timers (w : WinIdx) : (p.joinQueue w).timers = p.timers := rfl
@[simp] theorem Part.joinQueue_msel (w : WinIdx) : (p.joinQueue w).msel = p.msel := rfl
@[simp] theorem Part.joinQueue_link (w : WinIdx) : (p.joinQueue w).link = p.link := rfl
@[simp] theorem Part.joinQueue_incoming (w : WinIdx) : (p.joinQueue w).incoming = p.incoming := rfl
@[simp] theorem Part.joinQueue_responses (w : WinIdx) : (p.joinQueue w).responses = p.responses := rfl
@[simp] theorem Part.joinQueue_nextSeq (w : WinIdx) : (p.joinQueue w).nextSeq = p.nextSeq := rfl
@[simp] theorem Part.joinQueue_nextId (w : WinIdx) : (p.joinQueue w).nextId = p.nextId := rfl

/-! ### `leaveCarryOrder` -/

@[simp] theorem Part.leaveCarryOrder_resetn (w : WinIdx) : (p.leaveCarryOrder w).resetn = p.resetn := rfl
@[simp] theorem Part.leaveCarryOrder_device (w : WinIdx) : (p.leaveCarryOrder w).device = p.device := rfl
@[simp] theorem Part.leaveCarryOrder_windows (w : WinIdx) : (p.leaveCarryOrder w).windows = p.windows := rfl
@[simp] theorem Part.leaveCarryOrder_freeSlots (w : WinIdx) : (p.leaveCarryOrder w).freeSlots = p.freeSlots := rfl
@[simp] theorem Part.leaveCarryOrder_offerDue (w : WinIdx) : (p.leaveCarryOrder w).offerDue = p.offerDue := rfl
@[simp] theorem Part.leaveCarryOrder_queue (w : WinIdx) : (p.leaveCarryOrder w).queue = p.queue := rfl
@[simp] theorem Part.leaveCarryOrder_engine (w : WinIdx) : (p.leaveCarryOrder w).engine = p.engine := rfl
@[simp] theorem Part.leaveCarryOrder_stb0 (w : WinIdx) : (p.leaveCarryOrder w).stb0 = p.stb0 := rfl
@[simp] theorem Part.leaveCarryOrder_stb1 (w : WinIdx) : (p.leaveCarryOrder w).stb1 = p.stb1 := rfl
@[simp] theorem Part.leaveCarryOrder_banks (w : WinIdx) : (p.leaveCarryOrder w).banks = p.banks := rfl
@[simp] theorem Part.leaveCarryOrder_carry (w : WinIdx)
    : (p.leaveCarryOrder w).carry = { p.carry with order := p.carry.order.filter fun x => x ≠ w } := rfl
@[simp] theorem Part.leaveCarryOrder_hold (w : WinIdx) : (p.leaveCarryOrder w).hold = p.hold := rfl
@[simp] theorem Part.leaveCarryOrder_notify (w : WinIdx) : (p.leaveCarryOrder w).notify = p.notify := rfl
@[simp] theorem Part.leaveCarryOrder_openCount (w : WinIdx) : (p.leaveCarryOrder w).openCount = p.openCount := rfl
@[simp] theorem Part.leaveCarryOrder_down (w : WinIdx) : (p.leaveCarryOrder w).down = p.down := rfl
@[simp] theorem Part.leaveCarryOrder_timers (w : WinIdx) : (p.leaveCarryOrder w).timers = p.timers := rfl
@[simp] theorem Part.leaveCarryOrder_msel (w : WinIdx) : (p.leaveCarryOrder w).msel = p.msel := rfl
@[simp] theorem Part.leaveCarryOrder_link (w : WinIdx) : (p.leaveCarryOrder w).link = p.link := rfl
@[simp] theorem Part.leaveCarryOrder_incoming (w : WinIdx) : (p.leaveCarryOrder w).incoming = p.incoming := rfl
@[simp] theorem Part.leaveCarryOrder_responses (w : WinIdx) : (p.leaveCarryOrder w).responses = p.responses := rfl
@[simp] theorem Part.leaveCarryOrder_nextSeq (w : WinIdx) : (p.leaveCarryOrder w).nextSeq = p.nextSeq := rfl
@[simp] theorem Part.leaveCarryOrder_nextId (w : WinIdx) : (p.leaveCarryOrder w).nextId = p.nextId := rfl

/-! ### `updWork` -/

@[simp] theorem Part.updWork_resetn (f : Work → Work) : (p.updWork f).resetn = p.resetn := rfl
@[simp] theorem Part.updWork_device (f : Work → Work) : (p.updWork f).device = p.device := rfl
@[simp] theorem Part.updWork_windows (f : Work → Work) : (p.updWork f).windows = p.windows := rfl
@[simp] theorem Part.updWork_freeSlots (f : Work → Work) : (p.updWork f).freeSlots = p.freeSlots := rfl
@[simp] theorem Part.updWork_offerDue (f : Work → Work) : (p.updWork f).offerDue = p.offerDue := rfl
@[simp] theorem Part.updWork_queue (f : Work → Work) : (p.updWork f).queue = p.queue := rfl
@[simp] theorem Part.updWork_engine (f : Work → Work) : (p.updWork f).engine = p.engine.map f := rfl
@[simp] theorem Part.updWork_stb0 (f : Work → Work) : (p.updWork f).stb0 = p.stb0 := rfl
@[simp] theorem Part.updWork_stb1 (f : Work → Work) : (p.updWork f).stb1 = p.stb1 := rfl
@[simp] theorem Part.updWork_banks (f : Work → Work) : (p.updWork f).banks = p.banks := rfl
@[simp] theorem Part.updWork_carry (f : Work → Work) : (p.updWork f).carry = p.carry := rfl
@[simp] theorem Part.updWork_hold (f : Work → Work) : (p.updWork f).hold = p.hold := rfl
@[simp] theorem Part.updWork_notify (f : Work → Work) : (p.updWork f).notify = p.notify := rfl
@[simp] theorem Part.updWork_openCount (f : Work → Work) : (p.updWork f).openCount = p.openCount := rfl
@[simp] theorem Part.updWork_down (f : Work → Work) : (p.updWork f).down = p.down := rfl
@[simp] theorem Part.updWork_timers (f : Work → Work) : (p.updWork f).timers = p.timers := rfl
@[simp] theorem Part.updWork_msel (f : Work → Work) : (p.updWork f).msel = p.msel := rfl
@[simp] theorem Part.updWork_link (f : Work → Work) : (p.updWork f).link = p.link := rfl
@[simp] theorem Part.updWork_incoming (f : Work → Work) : (p.updWork f).incoming = p.incoming := rfl
@[simp] theorem Part.updWork_responses (f : Work → Work) : (p.updWork f).responses = p.responses := rfl
@[simp] theorem Part.updWork_nextSeq (f : Work → Work) : (p.updWork f).nextSeq = p.nextSeq := rfl
@[simp] theorem Part.updWork_nextId (f : Work → Work) : (p.updWork f).nextId = p.nextId := rfl

/-! ### `countTake` -/

@[simp] theorem Part.countTake_resetn : (p.countTake).resetn = p.resetn := rfl
@[simp] theorem Part.countTake_device : (p.countTake).device = p.device := rfl
@[simp] theorem Part.countTake_windows : (p.countTake).windows = p.windows := rfl
@[simp] theorem Part.countTake_freeSlots : (p.countTake).freeSlots = p.freeSlots := rfl
@[simp] theorem Part.countTake_offerDue : (p.countTake).offerDue = p.offerDue := rfl
@[simp] theorem Part.countTake_queue : (p.countTake).queue = p.queue := rfl
@[simp] theorem Part.countTake_engine : (p.countTake).engine = p.engine := rfl
@[simp] theorem Part.countTake_stb0 : (p.countTake).stb0 = p.stb0 := rfl
@[simp] theorem Part.countTake_stb1 : (p.countTake).stb1 = p.stb1 := rfl
@[simp] theorem Part.countTake_banks : (p.countTake).banks = p.banks := rfl
@[simp] theorem Part.countTake_carry : (p.countTake).carry = p.carry := rfl
@[simp] theorem Part.countTake_hold : (p.countTake).hold = p.hold := rfl
@[simp] theorem Part.countTake_notify : (p.countTake).notify = p.notify := rfl
@[simp] theorem Part.countTake_openCount : (p.countTake).openCount = p.openCount + 1 := rfl
@[simp] theorem Part.countTake_down : (p.countTake).down = p.down := rfl
@[simp] theorem Part.countTake_timers : (p.countTake).timers = p.timers := rfl
@[simp] theorem Part.countTake_msel : (p.countTake).msel = p.msel := rfl
@[simp] theorem Part.countTake_link : (p.countTake).link = p.link := rfl
@[simp] theorem Part.countTake_incoming : (p.countTake).incoming = p.incoming := rfl
@[simp] theorem Part.countTake_responses : (p.countTake).responses = p.responses := rfl
@[simp] theorem Part.countTake_nextSeq : (p.countTake).nextSeq = p.nextSeq + 1 := rfl
@[simp] theorem Part.countTake_nextId : (p.countTake).nextId = p.nextId := rfl

/-! ### `place` -/

@[simp] theorem Part.place_resetn (r : DownReq) : (p.place r).resetn = p.resetn := rfl
@[simp] theorem Part.place_device (r : DownReq) : (p.place r).device = p.device := rfl
@[simp] theorem Part.place_windows (r : DownReq) : (p.place r).windows = p.windows := rfl
@[simp] theorem Part.place_freeSlots (r : DownReq) : (p.place r).freeSlots = p.freeSlots := rfl
@[simp] theorem Part.place_offerDue (r : DownReq) : (p.place r).offerDue = p.offerDue := rfl
@[simp] theorem Part.place_queue (r : DownReq) : (p.place r).queue = p.queue := rfl
@[simp] theorem Part.place_engine (r : DownReq) : (p.place r).engine = p.engine := rfl
@[simp] theorem Part.place_stb0 (r : DownReq) : (p.place r).stb0 = p.stb0 := rfl
@[simp] theorem Part.place_stb1 (r : DownReq) : (p.place r).stb1 = p.stb1 := rfl
@[simp] theorem Part.place_banks (r : DownReq) : (p.place r).banks = p.banks := rfl
@[simp] theorem Part.place_carry (r : DownReq) : (p.place r).carry = p.carry := rfl
@[simp] theorem Part.place_hold (r : DownReq) : (p.place r).hold = p.hold := rfl
@[simp] theorem Part.place_notify (r : DownReq) : (p.place r).notify = p.notify := rfl
@[simp] theorem Part.place_openCount (r : DownReq) : (p.place r).openCount = p.openCount := rfl
@[simp] theorem Part.place_timers (r : DownReq) : (p.place r).timers = p.timers := rfl
@[simp] theorem Part.place_msel (r : DownReq) : (p.place r).msel = p.msel := rfl
@[simp] theorem Part.place_link (r : DownReq) : (p.place r).link = p.link := rfl
@[simp] theorem Part.place_incoming (r : DownReq) : (p.place r).incoming = p.incoming := rfl
@[simp] theorem Part.place_responses (r : DownReq) : (p.place r).responses = p.responses := rfl
@[simp] theorem Part.place_nextSeq (r : DownReq) : (p.place r).nextSeq = p.nextSeq := rfl
@[simp] theorem Part.place_nextId (r : DownReq) : (p.place r).nextId = p.nextId + 1 := rfl

/-! ### `dropEntry` -/

@[simp] theorem Part.dropEntry_resetn (id : Nat) : (p.dropEntry id).resetn = p.resetn := rfl
@[simp] theorem Part.dropEntry_device (id : Nat) : (p.dropEntry id).device = p.device := rfl
@[simp] theorem Part.dropEntry_windows (id : Nat) : (p.dropEntry id).windows = p.windows := rfl
@[simp] theorem Part.dropEntry_freeSlots (id : Nat) : (p.dropEntry id).freeSlots = p.freeSlots := rfl
@[simp] theorem Part.dropEntry_offerDue (id : Nat) : (p.dropEntry id).offerDue = p.offerDue := rfl
@[simp] theorem Part.dropEntry_queue (id : Nat) : (p.dropEntry id).queue = p.queue := rfl
@[simp] theorem Part.dropEntry_engine (id : Nat) : (p.dropEntry id).engine = p.engine := rfl
@[simp] theorem Part.dropEntry_stb0 (id : Nat) : (p.dropEntry id).stb0 = p.stb0 := rfl
@[simp] theorem Part.dropEntry_stb1 (id : Nat) : (p.dropEntry id).stb1 = p.stb1 := rfl
@[simp] theorem Part.dropEntry_banks (id : Nat) : (p.dropEntry id).banks = p.banks := rfl
@[simp] theorem Part.dropEntry_carry (id : Nat) : (p.dropEntry id).carry = p.carry := rfl
@[simp] theorem Part.dropEntry_hold (id : Nat) : (p.dropEntry id).hold = p.hold := rfl
@[simp] theorem Part.dropEntry_notify (id : Nat) : (p.dropEntry id).notify = p.notify := rfl
@[simp] theorem Part.dropEntry_openCount (id : Nat) : (p.dropEntry id).openCount = p.openCount := rfl
@[simp] theorem Part.dropEntry_down (id : Nat)
    : (p.dropEntry id).down = { p.down with table := p.down.table.filter fun e => e.req.id ≠ id } := rfl
@[simp] theorem Part.dropEntry_timers (id : Nat) : (p.dropEntry id).timers = p.timers := rfl
@[simp] theorem Part.dropEntry_msel (id : Nat) : (p.dropEntry id).msel = p.msel := rfl
@[simp] theorem Part.dropEntry_link (id : Nat) : (p.dropEntry id).link = p.link := rfl
@[simp] theorem Part.dropEntry_incoming (id : Nat) : (p.dropEntry id).incoming = p.incoming := rfl
@[simp] theorem Part.dropEntry_responses (id : Nat) : (p.dropEntry id).responses = p.responses := rfl
@[simp] theorem Part.dropEntry_nextSeq (id : Nat) : (p.dropEntry id).nextSeq = p.nextSeq := rfl
@[simp] theorem Part.dropEntry_nextId (id : Nat) : (p.dropEntry id).nextId = p.nextId := rfl

/-! ### `markExpired` -/

@[simp] theorem Part.markExpired_resetn (id : Nat) : (p.markExpired id).resetn = p.resetn := rfl
@[simp] theorem Part.markExpired_device (id : Nat) : (p.markExpired id).device = p.device := rfl
@[simp] theorem Part.markExpired_windows (id : Nat) : (p.markExpired id).windows = p.windows := rfl
@[simp] theorem Part.markExpired_freeSlots (id : Nat) : (p.markExpired id).freeSlots = p.freeSlots := rfl
@[simp] theorem Part.markExpired_offerDue (id : Nat) : (p.markExpired id).offerDue = p.offerDue := rfl
@[simp] theorem Part.markExpired_queue (id : Nat) : (p.markExpired id).queue = p.queue := rfl
@[simp] theorem Part.markExpired_engine (id : Nat) : (p.markExpired id).engine = p.engine := rfl
@[simp] theorem Part.markExpired_stb0 (id : Nat) : (p.markExpired id).stb0 = p.stb0 := rfl
@[simp] theorem Part.markExpired_stb1 (id : Nat) : (p.markExpired id).stb1 = p.stb1 := rfl
@[simp] theorem Part.markExpired_banks (id : Nat) : (p.markExpired id).banks = p.banks := rfl
@[simp] theorem Part.markExpired_carry (id : Nat) : (p.markExpired id).carry = p.carry := rfl
@[simp] theorem Part.markExpired_hold (id : Nat) : (p.markExpired id).hold = p.hold := rfl
@[simp] theorem Part.markExpired_notify (id : Nat) : (p.markExpired id).notify = p.notify := rfl
@[simp] theorem Part.markExpired_openCount (id : Nat) : (p.markExpired id).openCount = p.openCount := rfl
@[simp] theorem Part.markExpired_timers (id : Nat) : (p.markExpired id).timers = p.timers := rfl
@[simp] theorem Part.markExpired_msel (id : Nat) : (p.markExpired id).msel = p.msel := rfl
@[simp] theorem Part.markExpired_link (id : Nat) : (p.markExpired id).link = p.link := rfl
@[simp] theorem Part.markExpired_incoming (id : Nat) : (p.markExpired id).incoming = p.incoming := rfl
@[simp] theorem Part.markExpired_responses (id : Nat) : (p.markExpired id).responses = p.responses := rfl
@[simp] theorem Part.markExpired_nextSeq (id : Nat) : (p.markExpired id).nextSeq = p.nextSeq := rfl
@[simp] theorem Part.markExpired_nextId (id : Nat) : (p.markExpired id).nextId = p.nextId := rfl

/-! ### `openFrame` -/

@[simp] theorem Part.openFrame_resetn (code : Byte) (st : Status) (results : List Byte) (chosen : Option Nat)
    : (p.openFrame code st results chosen).resetn = p.resetn := rfl
@[simp] theorem Part.openFrame_device (code : Byte) (st : Status) (results : List Byte) (chosen : Option Nat)
    : (p.openFrame code st results chosen).device = p.device := rfl
@[simp] theorem Part.openFrame_windows (code : Byte) (st : Status) (results : List Byte) (chosen : Option Nat)
    : (p.openFrame code st results chosen).windows = p.windows := rfl
@[simp] theorem Part.openFrame_freeSlots (code : Byte) (st : Status) (results : List Byte) (chosen : Option Nat)
    : (p.openFrame code st results chosen).freeSlots = p.freeSlots := rfl
@[simp] theorem Part.openFrame_offerDue (code : Byte) (st : Status) (results : List Byte) (chosen : Option Nat)
    : (p.openFrame code st results chosen).offerDue = p.offerDue := rfl
@[simp] theorem Part.openFrame_queue (code : Byte) (st : Status) (results : List Byte) (chosen : Option Nat)
    : (p.openFrame code st results chosen).queue = p.queue := rfl
@[simp] theorem Part.openFrame_engine (code : Byte) (st : Status) (results : List Byte) (chosen : Option Nat)
    : (p.openFrame code st results chosen).engine = p.engine := rfl
@[simp] theorem Part.openFrame_stb0 (code : Byte) (st : Status) (results : List Byte) (chosen : Option Nat)
    : (p.openFrame code st results chosen).stb0 = p.stb0 := rfl
@[simp] theorem Part.openFrame_stb1 (code : Byte) (st : Status) (results : List Byte) (chosen : Option Nat)
    : (p.openFrame code st results chosen).stb1 = p.stb1 := rfl
@[simp] theorem Part.openFrame_banks (code : Byte) (st : Status) (results : List Byte) (chosen : Option Nat)
    : (p.openFrame code st results chosen).banks = p.banks := rfl
@[simp] theorem Part.openFrame_carry (code : Byte) (st : Status) (results : List Byte) (chosen : Option Nat)
    : (p.openFrame code st results chosen).carry = p.carry := rfl
@[simp] theorem Part.openFrame_hold (code : Byte) (st : Status) (results : List Byte) (chosen : Option Nat)
    : (p.openFrame code st results chosen).hold = p.hold := rfl
@[simp] theorem Part.openFrame_notify (code : Byte) (st : Status) (results : List Byte) (chosen : Option Nat)
    : (p.openFrame code st results chosen).notify = p.notify := rfl
@[simp] theorem Part.openFrame_openCount (code : Byte) (st : Status) (results : List Byte) (chosen : Option Nat)
    : (p.openFrame code st results chosen).openCount = p.openCount := rfl
@[simp] theorem Part.openFrame_down (code : Byte) (st : Status) (results : List Byte) (chosen : Option Nat)
    : (p.openFrame code st results chosen).down = p.down := rfl
@[simp] theorem Part.openFrame_timers (code : Byte) (st : Status) (results : List Byte) (chosen : Option Nat)
    : (p.openFrame code st results chosen).timers = p.timers := rfl
@[simp] theorem Part.openFrame_msel (code : Byte) (st : Status) (results : List Byte) (chosen : Option Nat)
    : (p.openFrame code st results chosen).msel = .lowInFrame := rfl
@[simp] theorem Part.openFrame_link (code : Byte) (st : Status) (results : List Byte) (chosen : Option Nat)
    : (p.openFrame code st results chosen).link = some ⟨code, st, results, chosen, 0⟩ := rfl
@[simp] theorem Part.openFrame_incoming (code : Byte) (st : Status) (results : List Byte) (chosen : Option Nat)
    : (p.openFrame code st results chosen).incoming = p.incoming := rfl
@[simp] theorem Part.openFrame_responses (code : Byte) (st : Status) (results : List Byte) (chosen : Option Nat)
    : (p.openFrame code st results chosen).responses = p.responses := rfl
@[simp] theorem Part.openFrame_nextSeq (code : Byte) (st : Status) (results : List Byte) (chosen : Option Nat)
    : (p.openFrame code st results chosen).nextSeq = p.nextSeq := rfl
@[simp] theorem Part.openFrame_nextId (code : Byte) (st : Status) (results : List Byte) (chosen : Option Nat)
    : (p.openFrame code st results chosen).nextId = p.nextId := rfl

/-! ### `endFrame` -/

@[simp] theorem Part.endFrame_resetn : (p.endFrame).resetn = p.resetn := rfl
@[simp] theorem Part.endFrame_device : (p.endFrame).device = p.device := rfl
@[simp] theorem Part.endFrame_windows : (p.endFrame).windows = p.windows := rfl
@[simp] theorem Part.endFrame_freeSlots : (p.endFrame).freeSlots = p.freeSlots := rfl
@[simp] theorem Part.endFrame_offerDue : (p.endFrame).offerDue = p.offerDue := rfl
@[simp] theorem Part.endFrame_queue : (p.endFrame).queue = p.queue := rfl
@[simp] theorem Part.endFrame_engine : (p.endFrame).engine = p.engine := rfl
@[simp] theorem Part.endFrame_stb0 : (p.endFrame).stb0 = p.stb0 := rfl
@[simp] theorem Part.endFrame_stb1 : (p.endFrame).stb1 = p.stb1 := rfl
@[simp] theorem Part.endFrame_banks : (p.endFrame).banks = p.banks := rfl
@[simp] theorem Part.endFrame_carry : (p.endFrame).carry = p.carry := rfl
@[simp] theorem Part.endFrame_hold : (p.endFrame).hold = p.hold := rfl
@[simp] theorem Part.endFrame_notify : (p.endFrame).notify = p.notify := rfl
@[simp] theorem Part.endFrame_openCount : (p.endFrame).openCount = p.openCount := rfl
@[simp] theorem Part.endFrame_down : (p.endFrame).down = p.down := rfl
@[simp] theorem Part.endFrame_timers : (p.endFrame).timers = p.timers := rfl
@[simp] theorem Part.endFrame_msel : (p.endFrame).msel = .high := rfl
@[simp] theorem Part.endFrame_link : (p.endFrame).link = none := rfl
@[simp] theorem Part.endFrame_incoming : (p.endFrame).incoming = [] := rfl
@[simp] theorem Part.endFrame_responses : (p.endFrame).responses = p.responses := rfl
@[simp] theorem Part.endFrame_nextSeq : (p.endFrame).nextSeq = p.nextSeq := rfl
@[simp] theorem Part.endFrame_nextId : (p.endFrame).nextId = p.nextId := rfl

/-! ### `advance` -/

@[simp] theorem Part.advance_resetn : (p.advance).resetn = p.resetn := rfl
@[simp] theorem Part.advance_device : (p.advance).device = p.device := rfl
@[simp] theorem Part.advance_windows : (p.advance).windows = p.windows := rfl
@[simp] theorem Part.advance_freeSlots : (p.advance).freeSlots = p.freeSlots := rfl
@[simp] theorem Part.advance_offerDue : (p.advance).offerDue = p.offerDue := rfl
@[simp] theorem Part.advance_queue : (p.advance).queue = p.queue := rfl
@[simp] theorem Part.advance_engine : (p.advance).engine = p.engine := rfl
@[simp] theorem Part.advance_stb0 : (p.advance).stb0 = p.stb0 := rfl
@[simp] theorem Part.advance_stb1 : (p.advance).stb1 = p.stb1 := rfl
@[simp] theorem Part.advance_banks : (p.advance).banks = p.banks := rfl
@[simp] theorem Part.advance_carry : (p.advance).carry = p.carry := rfl
@[simp] theorem Part.advance_hold : (p.advance).hold = p.hold := rfl
@[simp] theorem Part.advance_notify : (p.advance).notify = p.notify := rfl
@[simp] theorem Part.advance_openCount : (p.advance).openCount = p.openCount := rfl
@[simp] theorem Part.advance_down : (p.advance).down = p.down := rfl
@[simp] theorem Part.advance_timers
    : (p.advance).timers = { p.timers with count := p.timers.count + 1, activeDivisor := p.timers.divisor } := rfl
@[simp] theorem Part.advance_msel : (p.advance).msel = p.msel := rfl
@[simp] theorem Part.advance_link : (p.advance).link = p.link := rfl
@[simp] theorem Part.advance_incoming : (p.advance).incoming = p.incoming := rfl
@[simp] theorem Part.advance_responses : (p.advance).responses = p.responses := rfl
@[simp] theorem Part.advance_nextSeq : (p.advance).nextSeq = p.nextSeq := rfl
@[simp] theorem Part.advance_nextId : (p.advance).nextId = p.nextId := rfl

end Sys2Proof.Machine
end

