-- ==== Sys2Proof/Laws/Ports.lean ====
section
/-! SUPPORT. What the ports do at the end of an event: beginning carries and granting requests leave the part as
`AfterPorts` says, keep every request in the waiting lists or the table, and keep the identities apart. -/

namespace Sys2Proof.Machine

/-! ## Carry reads and identities -/

theorem carriesFrom_append (id : Nat) (a b : List (WinIdx × Nat)) :
    carriesFrom id (a ++ b) = carriesFrom id a ++ carriesFrom (id + a.length) b := by
  induction a generalizing id with
  | nil => rfl
  | cons x xs ih => simp [carriesFrom, ih, Nat.add_assoc, Nat.add_comm 1]

theorem carryReadsFrom_append (p : Part) (id : Nat) (a b : List (WinIdx × Nat)) :
    p.carryReadsFrom id (a ++ b) = p.carryReadsFrom id a ++ p.carryReadsFrom (id + a.length) b := by
  induction a generalizing id with
  | nil => rfl
  | cons x xs ih => simp [Part.carryReadsFrom, ih, Nat.add_assoc, Nat.add_comm 1]

/-- The carry reads depend on the window records alone. -/
theorem carryReadsFrom_congr {p q : Part} (h : q.windows = p.windows) (id : Nat) (l : List (WinIdx × Nat)) :
    q.carryReadsFrom id l = p.carryReadsFrom id l := by
  induction l generalizing id with
  | nil => rfl
  | cons x xs ih => simp [Part.carryReadsFrom, ih, Part.carryReadRequest, Part.win, h]

theorem carryReadsFrom_ids (p : Part) (id : Nat) (l : List (WinIdx × Nat)) :
    (p.carryReadsFrom id l).map DownReq.id = List.range' id l.length := by
  induction l generalizing id with
  | nil => rfl
  | cons x xs ih => simp [Part.carryReadsFrom, ih, List.range'_succ]

/-- Identities stay apart when carry reads join under the next ones. -/
theorem idsRight_of_perm {p : Part} {begun : List (WinIdx × Nat)} {rs : List DownReq} (i : p.IdsRight)
    (h : rs.Perm (p.down.requests ++ p.carryReadsFrom p.nextId begun)) :
    (rs.map DownReq.id).Nodup ∧ ∀ r ∈ rs, r.id < p.nextId + begun.length := by
  constructor
  · rw [(h.map _).nodup_iff, List.map_append, carryReadsFrom_ids, List.nodup_append]
    refine ⟨i.apart, List.nodup_range', fun a ha b hb hab => ?_⟩
    obtain ⟨r, hr, rfl⟩ := List.mem_map.mp ha
    have hlt := i.below r hr
    have hle := (List.mem_range'_1.mp hb).1
    omega
  · intro r hr
    rcases List.mem_append.mp (h.mem_iff.mp hr) with h' | h'
    · exact Nat.lt_add_right _ (i.below r h')
    · have hm : r.id ∈ (p.carryReadsFrom p.nextId begun).map DownReq.id := List.mem_map_of_mem h'
      rw [carryReadsFrom_ids, List.mem_range'_1] at hm
      exact hm.2

/-! ## The relation -/

/-- Nothing begun, nothing granted. -/
theorem AfterPorts.refl (p : Part) : AfterPorts p p := by
  refine ⟨[], [], ?_, by simp, by simp, .refl _, .refl _, ?_, by simp, fun _ => ?_⟩
  · cases p
    simp [carriesFrom, drainsIn]
  · simp [Part.carryReadsFrom]
  · simp [Part.carryReadsFrom]

/-- What AfterPorts leaves alone. -/
theorem AfterPorts.same {p q : Part} (a : AfterPorts p q) :
    q.windows = p.windows ∧ q.hold = p.hold ∧ q.freeSlots = p.freeSlots ∧ q.queue = p.queue ∧ q.banks = p.banks
      ∧ q.notify = p.notify ∧ q.responses = p.responses ∧ q.openCount = p.openCount ∧ q.timers = p.timers
      ∧ q.link = p.link ∧ q.device = p.device ∧ q.resetn = p.resetn ∧ q.offerDue = p.offerDue ∧ q.nextSeq = p.nextSeq
      ∧ q.carry.order = p.carry.order ∧ q.carry.demand = p.carry.demand ∧ q.stb0 = p.stb0 ∧ q.stb1 = p.stb1
      ∧ (q.engine = none ↔ p.engine = none) := by
  obtain ⟨begun, new, e, -⟩ := a
  rw [e]
  and_intros <;> first | rfl | exact Option.map_eq_none_iff

theorem AfterPorts.device {p q : Part} (a : AfterPorts p q) : q.device = p.device := by
  obtain ⟨_, _, e, -⟩ := a
  rw [e]

/-- The identities stay apart. -/
theorem AfterPorts.idsRight {p q : Part} (a : AfterPorts p q) (i : p.IdsRight) : q.IdsRight := by
  obtain ⟨begun, new, e, -, -, -, -, -, -, perm⟩ := a
  have h := idsRight_of_perm i (perm i)
  exact ⟨h.1, fun r hr => by rw [e]; exact h.2 r hr⟩

theorem AfterPorts.trans {p q r : Part} (a : AfterPorts p q) (b : AfterPorts q r) : AfterPorts p r := by
  have i := fun h => a.idsRight h
  have hw := a.same.1
  obtain ⟨b1, n1, e1, t1, w1, f1, u1, c1, l1, p1⟩ := a
  obtain ⟨b2, n2, e2, t2, w2, f2, u2, c2, l2, p2⟩ := b
  have hn : q.nextId = p.nextId + b1.length := by rw [e1]
  have ht : q.timers = p.timers := by rw [e1]
  have hr : p.carryReadsFrom p.nextId (b1 ++ b2) = p.carryReadsFrom p.nextId b1 ++ q.carryReadsFrom q.nextId b2 := by
    rw [carryReadsFrom_append, carryReadsFrom_congr hw, hn]
  refine ⟨b1 ++ b2, n1 ++ n2, ?_, by rw [t2, t1, List.append_assoc], ?_, f2.trans f1, u2.trans u1, ?_, ?_, fun h => ?_⟩
  · clear t1 t2 w1 w2 f1 f2 u1 u2 c1 c2 l1 l2 p1 p2 hr ht hw i
    generalize r.down = d at e2 ⊢
    generalize q.down = d' at e1
    subst e1
    subst e2
    simp only [carriesFrom_append, List.append_assoc, Option.map_map, List.length_append, Nat.add_assoc, drainsIn,
      List.countP_append]
    congr 1
    cases p.engine <;> simp [Nat.add_assoc]
  · intro x hx
    rw [hr]
    rcases List.mem_append.mp hx with h | h
    · obtain ⟨hx1, hx2, hx3⟩ := w1 x h
      refine ⟨hx1, hx2, ?_⟩
      simp only [List.mem_append] at hx3 ⊢
      rcases hx3 with h | h <;> simp [h]
    · obtain ⟨hx1, hx2, hx3⟩ := w2 x h
      refine ⟨hx1, ht ▸ hx2, ?_⟩
      simp only [List.mem_append] at hx3 ⊢
      rcases hx3 with ((h | h) | h) | h
      · simp [f1.subset h]
      · simp [u1.subset h]
      · rcases List.mem_append.mp (c1.subset h) with h | h <;> simp [h]
      · simp [h]
  · rw [hr, ← List.append_assoc]
    exact c2.trans (c1.append (.refl _))
  · rw [l2, l1]
    rcases List.eq_nil_or_concat n2 with rfl | ⟨_, _, rfl⟩ <;> simp
  · rw [hr, ← List.append_assoc]
    exact (p2 (i h)).trans ((p1 h).append (.refl _))

/-! ## Beginning carries and granting -/

theorem requests_place (p : Part) (r : DownReq) :
    (p.place r).down.requests.Perm (p.down.requests ++ [{ r with id := p.nextId }]) := by
  unfold Part.place Down.requests
  cases h : r.kind.cls <;> simp only [] <;>
    (rw [List.perm_iff_count]; intro x; simp only [List.count_append]; omega)

theorem afterPorts_beginCarry (p : Part) (w : WinIdx) (l : Nat) : AfterPorts p (p.beginCarry w l) := by
  refine ⟨[(w, l)], [], ?_, ?_, by simp, .refl _, .refl _, .refl _, by rfl, fun _ => ?_⟩
  · simp only [drainsIn, List.countP_nil, Nat.add_zero, Option.map_id']
    rfl
  · simp [Part.beginCarry, Part.place, Part.carryReadRequest, DownKind.cls]
  · exact requests_place { p with carry := { p.carry with inFlight := p.carry.inFlight ++ [⟨w, l, p.nextId⟩] } }
      (p.carryReadRequest w l)

theorem afterPorts_beginCarries (n : Nat) (p : Part) : AfterPorts p (Part.beginCarries n p) := by
  induction n generalizing p with
  | zero => exact .refl p
  | succ n ih =>
    unfold Part.beginCarries
    repeat' split
    · exact .refl p
    · exact (afterPorts_beginCarry p _ _).trans (ih _)
    · exact .refl p

theorem afterPorts_carryEngine (p : Part) : AfterPorts p p.carryEngine := afterPorts_beginCarries _ p

/-- The downstream port after an issue (R151, R155). -/
theorem issue_down (p : Part) (r : DownReq) :
    (p.issue r).down =
      { forwarded := p.down.forwarded.filter fun q => q.id ≠ r.id
        publish := p.down.publish.filter fun q => q.id ≠ r.id
        carry := p.down.carry.filter fun q => q.id ≠ r.id
        table := p.down.table ++ [⟨r, p.timers.count + p.timers.answerLimit.setWidth 32, false⟩]
        last := r.kind.cls } := by
  unfold Part.issue
  dsimp only
  split <;> rfl

/-- The oldest issuable request is one of the list. -/
theorem oldestIssuable_mem {d : Down} {older l : List DownReq} {r : DownReq} (h : d.oldestIssuable older l = some r) :
    r ∈ l := by
  induction l generalizing older with
  | nil => simp [Down.oldestIssuable] at h
  | cons x xs ih =>
    unfold Down.oldestIssuable at h
    split at h
    · cases h
      exact List.mem_cons_self ..
    · exact List.mem_cons_of_mem _ (ih h)

/-- The arbiter's choice waits in a waiting list. -/
theorem grantee_waits {d : Down} {r : DownReq} (h : d.grantee = some r) : r ∈ d.forwarded ++ d.publish ++ d.carry := by
  have one : ∀ c, d.candidate c = some r → r ∈ d.forwarded ++ d.publish ++ d.carry := by
    intro c hc
    cases c with
    | forwarded => exact List.mem_append_left _ (List.mem_append_left _ (oldestIssuable_mem hc))
    | carry => exact List.mem_append_right _ (oldestIssuable_mem hc)
    | publish =>
      unfold Down.candidate at hc
      cases hp : d.publish with
      | nil => simp [hp] at hc
      | cons x xs =>
        simp only [hp] at hc
        split at hc
        · cases hc
          simp
        · cases hc
  unfold Down.grantee at h
  cases ha : d.candidate d.last.after with
  | some a => rw [ha] at h; exact one _ (ha.trans (by simpa using h))
  | none =>
    cases hb : d.candidate d.last.after.after with
    | some b => rw [ha, hb] at h; exact one _ (hb.trans (by simpa using h))
    | none => rw [ha, hb] at h; exact one _ (by simpa using h)

/-- Of a list whose identities are apart, the member of an identity and the others make the list. -/
theorem perm_cons_filter_id {l : List DownReq} (h : (l.map DownReq.id).Nodup) {r : DownReq} (hr : r ∈ l) :
    (r :: l.filter fun q => q.id ≠ r.id).Perm l := by
  induction l with
  | nil => cases hr
  | cons x xs ih =>
    rw [List.map_cons, List.nodup_cons] at h
    by_cases hx : x.id = r.id
    · have he : x = r := by
        rcases List.mem_cons.mp hr with h' | h'
        · exact h'.symm
        · exact absurd (List.mem_map.mpr ⟨r, h', hx.symm⟩) h.1
      subst he
      rw [List.filter_cons_of_neg (by simp), List.filter_eq_self.mpr]
      intro q hq
      simp only [decide_eq_true_eq]
      intro hid
      exact h.1 (List.mem_map.mpr ⟨q, hq, hid⟩)
    · have hr' : r ∈ xs := by
        rcases List.mem_cons.mp hr with rfl | h'
        · exact absurd rfl hx
        · exact h'
      rw [List.filter_cons_of_pos (by simpa using hx)]
      exact (List.Perm.swap _ _ _).trans ((ih h.2 hr').cons x)

/-- An issue moves a request that waits into the table. -/
theorem requests_issue {p : Part} (i : p.IdsRight) {r : DownReq}
    (hw : r ∈ p.down.forwarded ++ p.down.publish ++ p.down.carry) : (p.issue r).down.requests.Perm p.down.requests := by
  rw [issue_down]
  unfold Down.requests
  simp only [List.map_append, List.map_cons, List.map_nil]
  rw [← List.filter_append, ← List.filter_append]
  have hn : ((p.down.forwarded ++ p.down.publish ++ p.down.carry).map DownReq.id).Nodup :=
    (i.apart).sublist ((List.sublist_append_left _ _).map _)
  have h := perm_cons_filter_id hn hw
  rw [← List.append_assoc]
  exact List.perm_append_comm.trans (List.append_assoc .. ▸ h.append (.refl _))

theorem afterPorts_issue {p : Part} {r : DownReq} (hr : p.down.grantee = some r) : AfterPorts p (p.issue r) := by
  have hw := grantee_waits hr
  refine ⟨[], [⟨r, p.timers.count + p.timers.answerLimit.setWidth 32, false⟩], ?_, by rw [issue_down], ?_, ?_, ?_, ?_, ?_,
    fun i => ?_⟩
  · unfold Part.issue
    dsimp only
    split <;> rename_i hk <;> cases p <;> simp [Part.updWork, carriesFrom, drainsIn, hk]
  · intro e he
    rw [List.mem_singleton.mp he]
    exact ⟨rfl, rfl, List.mem_append_left _ hw⟩
  · rw [issue_down]
    exact List.filter_sublist
  · rw [issue_down]
    exact List.filter_sublist
  · rw [issue_down]
    simp [Part.carryReadsFrom]
  · rw [issue_down]
    rfl
  · simpa [Part.carryReadsFrom] using requests_issue i hw

theorem afterPorts_grant {p : Part} {r : DownReq} (hr : p.down.grantee = some r) : AfterPorts p (p.grant r) := by
  unfold Part.grant
  split
  · exact (afterPorts_issue hr).trans (afterPorts_carryEngine _)
  · exact afterPorts_issue hr

theorem afterPorts_grants (n : Nat) (p : Part) : AfterPorts p (Part.grants n p) := by
  induction n generalizing p with
  | zero => exact .refl p
  | succ n ih =>
    unfold Part.grants
    split
    · exact .refl p
    · rename_i r hr
      exact (afterPorts_grant hr).trans (ih _)

theorem afterPorts_grantAll (p : Part) : AfterPorts p p.grantAll := afterPorts_grants _ p

/-- The end of an event that reaches only the ports. -/
theorem afterPorts_portEnd (p : Part) : AfterPorts p p.portEnd :=
  (afterPorts_carryEngine p).trans (afterPorts_grantAll _)

/-! ## The end of an event at rest -/

theorem takeAll_of_atRest (n : Nat) {p : Part} (h : p.engine ≠ none ∨ p.queue = []) : Part.takeAll n p = p := by
  cases n with
  | zero => rfl
  | succ n =>
    unfold Part.takeAll
    split
    · rename_i he _ hq
      rcases h with h | h
      · exact absurd he h
      · rw [h] at hq
        cases hq
    · rfl

/-- The engine takes no window while it is busy, its queue is empty or the device is RESTARTING (R77, R94). -/
theorem takeAll_of_noTake (n : Nat) {p : Part} (h : p.device = .running → p.engine ≠ none ∨ p.queue = []) :
    Part.takeAll n p = p := by
  by_cases hd : p.device = .running
  · exact takeAll_of_atRest n (h hd)
  · cases n with
    | zero => rfl
    | succ n =>
      unfold Part.takeAll
      split
      · exact absurd ‹_› hd
      · rfl

theorem restartSettled_iff (p : Part) : p.restartSettled = true ↔ p.Settled := by
  simp only [Part.restartSettled, Down.partSettled, Bool.and_eq_true, decide_eq_true_eq, Option.isNone_iff_eq_none,
    List.isEmpty_iff, List.all_eq_true, Bool.or_eq_true]
  constructor
  · rintro ⟨⟨⟨d, e⟩, c⟩, t⟩
    exact ⟨d, e, c, fun x hx ho => (t x hx).resolve_right fun h => h ho⟩
  · rintro ⟨d, e, c, t⟩
    exact ⟨⟨⟨d, e⟩, c⟩, fun x hx => Decidable.or_iff_not_imp_right.mpr fun h => t x hx (Decidable.not_not.mp h)⟩

theorem completeIfSettled_of_running {p : Part} (h : p.device = .running) : p.completeIfSettled = p := by
  simp [Part.completeIfSettled, Part.restartSettled, h]

/-- While the device is RUNNING, the engine busy or its queue empty, and no offer pass owed, an event ends at the
ports. -/
theorem eventEnd_of_atRest {p : Part} (r : p.AtRest) (d : p.device = .running) : p.eventEnd = p.portEnd := by
  unfold Part.eventEnd
  rw [takeAll_of_atRest _ r.1, show p.offerIfDue = p by simp [Part.offerIfDue, r.2]]
  exact completeIfSettled_of_running ((afterPorts_portEnd p).device.trans d)

theorem afterPorts_eventEnd {p : Part} (r : p.AtRest) (d : p.device = .running) : AfterPorts p p.eventEnd :=
  eventEnd_of_atRest r d ▸ afterPorts_portEnd p

/-- The end of an event at which the engine takes nothing and no offer pass is owed, in a RUNNING and in a RESTARTING device:
the ports go on, and the warm reset completion falls where its conditions then hold (R167). -/
theorem afterEvent_eventEnd {p : Part} (take : p.device = .running → p.engine ≠ none ∨ p.queue = [])
    (offer : p.offerDue = false) : AfterEvent p p.eventEnd := by
  unfold Part.eventEnd
  rw [takeAll_of_noTake _ take, show p.offerIfDue = p by simp [Part.offerIfDue, offer]]
  refine ⟨p.portEnd, afterPorts_portEnd p, fun h => ?_, fun h => ?_⟩
  · rw [Part.completeIfSettled, if_pos ((restartSettled_iff _).mpr h)]
  · rw [Part.completeIfSettled, if_neg fun g => h ((restartSettled_iff _).mp g)]

/-- While the device is RUNNING an event ends at the ports. -/
theorem AfterEvent.running {p q : Part} (a : AfterEvent p q) (d : p.device = .running) : AfterPorts p q := by
  obtain ⟨r, ports, -, rest⟩ := a
  have h : ¬r.Settled := fun h => by
    have := h.restarting
    rw [ports.device, d] at this
    cases this
  exact rest h ▸ ports

/-- An offer pass owed with an empty hold queue offers nothing. -/
theorem offerIfDue_of_none {p : Part} (h : p.hold = []) : p.offerIfDue = { p with offerDue := false } := by
  unfold Part.offerIfDue
  split
  · rw [h]
    rfl
  · rename_i hd
    cases p
    simp_all

/-! ## No request is lost -/

theorem Part.Accounted.idsRight {p : Part} (a : p.Accounted) : p.IdsRight := ⟨a.ids, a.nextId⟩

/-- Two requests of one identity are one request. -/
theorem eq_of_id {l : List DownReq} (h : (l.map DownReq.id).Nodup) {a b : DownReq} (ha : a ∈ l) (hb : b ∈ l)
    (he : a.id = b.id) : a = b := by
  induction l with
  | nil => cases ha
  | cons x xs ih =>
    rw [List.map_cons, List.nodup_cons] at h
    rcases List.mem_cons.mp ha with rfl | ha' <;> rcases List.mem_cons.mp hb with rfl | hb'
    · rfl
    · exact absurd (List.mem_map.mpr ⟨b, hb', he.symm⟩) h.1
    · exact absurd (List.mem_map.mpr ⟨a, ha', he⟩) h.1
    · exact ih h.2 ha' hb'

/-- A request placed stays placed while the ports go on. -/
theorem AfterPorts.placed {p q : Part} (a : AfterPorts p q) (i : p.IdsRight) {r : DownReq} (h : p.placed r) :
    q.placed r := by
  obtain ⟨_, _, _, _, _, _, _, _, _, perm⟩ := a
  exact (perm i).mem_iff.mpr (List.mem_append_left _ h)

/-- The identities stay apart when a request is placed, and the request is there. -/
theorem idsRight_place {p : Part} (i : p.IdsRight) (r : DownReq) :
    (p.place r).IdsRight ∧ (p.place r).placed { r with id := p.nextId } := by
  have hp := requests_place p r
  refine ⟨⟨?_, ?_⟩, hp.mem_iff.mpr (List.mem_append_right _ (List.mem_singleton_self _))⟩
  · rw [(hp.map DownReq.id).nodup_iff, List.map_append, List.nodup_append]
    refine ⟨i.apart, by simp, fun a ha b hb hab => ?_⟩
    obtain ⟨x, hx, rfl⟩ := List.mem_map.mp ha
    have hb : b = p.nextId := by simpa using hb
    have := i.below x hx
    omega
  · intro x hx
    rcases List.mem_append.mp (hp.mem_iff.mp hx) with h | h
    · exact Nat.lt_succ_of_lt (i.below x h)
    · rw [List.mem_singleton.mp h]
      exact Nat.lt_succ_self _

end Sys2Proof.Machine
end

