-- ==== Sys2Proof/Laws/Choices.lean ====
section
/-! SUPPORT. What the carry engine and the arbiter choose: the functions of the model are the choices of R117, R152 and R155
that the statements speak of, and the ports go on until nothing is left to choose. -/

namespace Sys2Proof.Machine

/-! ## The arbiter (R152, R155) -/

theorem writes_iff (r : DownReq) : r.Writes ↔ r.kind.isWrite = true := by
  unfold DownReq.Writes
  cases r.kind <;> decide

theorem clash_iff (a b : DownReq) : clash a b = true ↔ a.Conflicts b := by
  simp only [clash, DownReq.Conflicts, Bool.and_eq_true, Bool.or_eq_true, decide_eq_true_eq, writes_iff]

theorem busy_publish (d : Down) : d.busy [.guardRead, .drainWrite, .stampWrite] = d.outstanding .publish := by
  unfold Down.busy Down.outstanding
  refine List.countP_congr fun e _ => ?_
  cases h : e.req.kind <;> simp [DownKind.cls]

theorem busy_carry (d : Down) : d.busy [.carryRead, .carryWrite] = d.outstanding .carry := by
  unfold Down.busy Down.outstanding
  refine List.countP_congr fun e _ => ?_
  cases h : e.req.kind <;> simp [DownKind.cls]

/-- The class limits (R153). -/
theorem belowLimit_iff (d : Down) (r : DownReq) : d.belowLimit r.kind.cls = true ↔
    (r.kind ∈ [DownKind.guardRead, .drainWrite, .stampWrite] → d.busy [.guardRead, .drainWrite, .stampWrite] < 8)
      ∧ (r.kind ∈ [DownKind.carryRead, .carryWrite] → d.busy [.carryRead, .carryWrite] < 4) := by
  rw [busy_publish, busy_carry]
  cases r.kind <;> simp [DownKind.cls, Down.belowLimit, Config.publishLimit, Config.carryLimit]

/-- The holds of R48, R50 and R110 order 2. -/
theorem holdsMet_iff (d : Down) (r : DownReq) : d.holdsMet r = true ↔
    r.read.waits = false
      ∧ (r.kind = .drainWrite → ∀ x ∈ d.forwarded ++ d.table.map Entry.req,
          ¬(x.kind = .viewRead ∧ x.read.consumer = true ∧ x.window = r.window ∧ x.line = r.line ∧ x.id < r.id))
      ∧ (r.kind = .redirectedWrite ∨ r.kind = .carryWrite → ∀ x ∈ d.forwarded ++ d.table.map Entry.req,
          ¬(x.kind = .viewRead ∧ x.read.image = true ∧ x.window = r.window ∧ x.line = r.line ∧ x.id < r.flipMark)) := by
  have reader : (!d.keptByReader r) = true ↔ ∀ x ∈ d.forwarded ++ d.table.map Entry.req,
      ¬(x.kind = .viewRead ∧ x.read.consumer = true ∧ x.window = r.window ∧ x.line = r.line ∧ x.id < r.id) := by
    simp only [Down.keptByReader, Down.unfinished, Bool.not_eq_true', List.any_eq_false, Bool.and_eq_true,
      decide_eq_true_eq, and_assoc]
  have old : (!d.keptByOldReader r) = true ↔ ∀ x ∈ d.forwarded ++ d.table.map Entry.req,
      ¬(x.kind = .viewRead ∧ x.read.image = true ∧ x.window = r.window ∧ x.line = r.line ∧ x.id < r.flipMark) := by
    simp only [Down.keptByOldReader, Down.unfinished, Bool.not_eq_true', List.any_eq_false, Bool.and_eq_true,
      decide_eq_true_eq, and_assoc]
  unfold Down.holdsMet
  rw [Bool.and_eq_true, Bool.not_eq_true']
  cases r.kind <;> simp only [reader, old] <;> simp

theorem issuable_iff (d : Down) (older : List DownReq) (r : DownReq) : d.issuable older r = true ↔ d.Issuable older r := by
  have conflict : d.conflictFree r = true ↔ ∀ e ∈ d.table, ¬e.req.Conflicts r := by
    simp only [Down.conflictFree, List.all_eq_true, Bool.not_eq_true', ← clash_iff, Bool.not_eq_true]
  have order : (older.all fun q => !clash q r) = true ↔ ∀ x ∈ older, ¬x.Conflicts r := by
    simp only [List.all_eq_true, Bool.not_eq_true', ← clash_iff, Bool.not_eq_true]
  simp only [Down.issuable, Bool.and_eq_true, conflict, order, belowLimit_iff, holdsMet_iff, decide_eq_true_eq]
  exact ⟨fun ⟨⟨⟨⟨conflict, publish, carry⟩, free⟩, order⟩, slot, reader, oldReader⟩ =>
      { conflict, publish, carry, free, order, slot, reader, oldReader },
    fun h => ⟨⟨⟨⟨h.conflict, h.publish, h.carry⟩, h.free⟩, h.order⟩, h.slot, h.reader, h.oldReader⟩⟩

/-- The oldest issuable request of a list behind the requests `seen`. -/
theorem oldestIssuable_iff (d : Down) (seen l : List DownReq) (r : DownReq) : d.oldestIssuable seen l = some r ↔
    ∃ older newer, l = older ++ r :: newer ∧ d.Issuable (seen ++ older) r
      ∧ ∀ before x after, older = before ++ x :: after → ¬d.Issuable (seen ++ before) x := by
  induction l generalizing seen with
  | nil => simp [Down.oldestIssuable]
  | cons y ys ih =>
    unfold Down.oldestIssuable
    by_cases can : d.issuable seen y = true
    · rw [if_pos can]
      constructor
      · intro h
        cases h
        exact ⟨[], ys, rfl, by simpa using (issuable_iff ..).mp can, by simp⟩
      · rintro ⟨older, newer, split, -, none⟩
        cases older with
        | nil => simp only [List.nil_append, List.cons.injEq] at split; rw [split.1]
        | cons x xs =>
          simp only [List.cons_append, List.cons.injEq] at split
          exact absurd ((issuable_iff ..).mp can) (by simpa [split.1] using none [] x xs rfl)
    · rw [if_neg can, ih]
      constructor
      · rintro ⟨older, newer, split, yes, none⟩
        refine ⟨y :: older, newer, by rw [split]; rfl, by simpa using yes, fun before x after eq => ?_⟩
        cases before with
        | nil =>
          simp only [List.nil_append, List.cons.injEq] at eq
          simpa [← eq.1, ← issuable_iff] using can
        | cons b bs =>
          simp only [List.cons_append, List.cons.injEq] at eq
          simpa [eq.1] using none bs x after eq.2
      · rintro ⟨older, newer, split, yes, none⟩
        cases older with
        | nil =>
          simp only [List.nil_append, List.cons.injEq] at split
          exact absurd ((issuable_iff ..).mpr (by simpa [split.1] using yes)) can
        | cons x xs =>
          simp only [List.cons_append, List.cons.injEq] at split
          refine ⟨xs, newer, split.2, by simpa [split.1] using yes, fun before z after eq => ?_⟩
          simpa [split.1] using none (x :: before) z after (by rw [eq]; rfl)

theorem oldest_iff (d : Down) (l : List DownReq) (r : DownReq) : d.oldestIssuable [] l = some r ↔ d.Oldest l r := by
  simpa [Down.Oldest] using oldestIssuable_iff d [] l r

theorem candidate_iff (d : Down) (c : DownClass) (r : DownReq) : d.candidate c = some r ↔ d.Candidate c r := by
  cases c with
  | forwarded => exact oldest_iff d _ r
  | carry => exact oldest_iff d _ r
  | publish =>
    simp only [Down.candidate, Down.Candidate, ← issuable_iff]
    cases d.publish with
    | nil => simp
    | cons x xs =>
      by_cases can : d.issuable [] x = true
      · simp only [if_pos can, Option.some.injEq, List.cons.injEq]
        exact ⟨fun eq => ⟨⟨xs, eq, rfl⟩, eq ▸ can⟩, fun ⟨⟨_, eq, _⟩, _⟩ => eq⟩
      · simp only [if_neg can, List.cons.injEq]
        exact ⟨nofun, fun ⟨⟨_, eq, _⟩, yes⟩ => absurd (eq ▸ yes) can⟩

theorem candidate_none (d : Down) (c : DownClass) : d.candidate c = none ↔ ∀ r, ¬d.Candidate c r := by
  simp only [Option.eq_none_iff_forall_ne_some, ne_eq, candidate_iff]

/-- The first candidate in a list of classes, which the arbiter looks at in turn. -/
theorem firstCandidate_iff (d : Down) (a b c : DownClass) (r : DownReq) :
    ((d.candidate a).or (d.candidate b)).or (d.candidate c) = some r ↔
      ∃ before x after, [a, b, c] = before ++ x :: after ∧ d.Candidate x r ∧ ∀ y ∈ before, ∀ q, ¬d.Candidate y q := by
  simp only [← candidate_none]
  simp only [← candidate_iff, Option.or_eq_some_iff]
  constructor
  · rintro (h | ⟨h, h'⟩)
    · rcases h with h | ⟨h, h'⟩
      · exact ⟨[], a, [b, c], rfl, h, by simp⟩
      · exact ⟨[a], b, [c], rfl, h', by simpa using h⟩
    · rw [Option.or_eq_none_iff] at h
      exact ⟨[a, b], c, [], rfl, h', by simpa using h⟩
  · rintro ⟨before, x, after, split, yes, skip⟩
    rcases before with _ | ⟨p, _ | ⟨q, _ | ⟨u, rest⟩⟩⟩
    · simp only [List.nil_append, List.cons.injEq] at split
      exact .inl (.inl (split.1 ▸ yes))
    · simp only [List.cons_append, List.nil_append, List.cons.injEq] at split
      exact .inl (.inr ⟨split.1 ▸ skip p (by simp), split.2.1 ▸ yes⟩)
    · simp only [List.cons_append, List.nil_append, List.cons.injEq] at split
      exact .inr ⟨Option.or_eq_none_iff.mpr ⟨split.1 ▸ skip p (by simp), split.2.1 ▸ skip q (by simp)⟩,
        split.2.2.1 ▸ yes⟩
    · simp at split

/-- The arbiter's choice, in R155's words. -/
theorem grantee_iff (d : Down) (r : DownReq) : d.grantee = some r ↔ d.Choice r := by
  unfold Down.grantee Down.Choice
  cases d.last <;> exact firstCandidate_iff d _ _ _ r

theorem grantee_none (d : Down) : d.grantee = none ↔ ∀ r, ¬d.Choice r := by
  simp only [Option.eq_none_iff_forall_ne_some, ne_eq, grantee_iff]

theorem choice_of_some {d : Down} (h : d.grantee ≠ none) : ∃ r, d.Choice r := by
  obtain ⟨r, eq⟩ := Option.ne_none_iff_exists'.mp h
  exact ⟨r, (grantee_iff d r).mp eq⟩

/-! ## The carry engine (R117) -/

theorem startable_iff (p : Part) (w : WinIdx) (l : Nat) : p.startable w l = true ↔ p.Startable w l := by
  have idle : (!p.carrying w l) = true ↔ ∀ c ∈ p.carry.inFlight, ¬(c.window = w ∧ c.line = l) := by
    simp only [Part.carrying, Bool.not_eq_true', List.any_eq_false, Bool.and_eq_true, decide_eq_true_eq]
  have unwritten : (!p.redirectWaiting ((p.win w).backLine l)) = true ↔
      ∀ r ∈ p.down.forwarded, ¬(r.kind = .redirectedWrite ∧ r.line = (p.win w).backLine l) := by
    simp only [Part.redirectWaiting, Bool.not_eq_true', List.any_eq_false, Bool.and_eq_true, decide_eq_true_eq]
  simp only [Part.startable, Bool.and_eq_true, idle, unwritten, Bool.not_eq_true']
  exact ⟨fun ⟨⟨⟨carried, idle⟩, unwritten⟩, sound⟩ => { carried, idle, unwritten, sound },
    fun h => ⟨⟨⟨h.carried, h.idle⟩, h.unwritten⟩, h.sound⟩⟩

/-- The lowest index of a range for which a test holds. -/
theorem firstIndex_iff (t : Nat → Bool) (n i l : Nat) :
    firstIndex t n i = some l ↔ i ≤ l ∧ l < i + n ∧ t l = true ∧ ∀ m, i ≤ m → m < l → t m = false := by
  induction n generalizing i with
  | zero =>
    simp only [firstIndex, reduceCtorEq, false_iff]
    omega
  | succ n ih =>
    unfold firstIndex
    split
    · next yes =>
      constructor
      · intro h
        cases h
        exact ⟨Nat.le_refl _, by omega, yes, fun m _ _ => by omega⟩
      · rintro ⟨le, -, -, none⟩
        rcases Nat.lt_or_eq_of_le le with lt | rfl
        · exact absurd yes (by simp [none i (Nat.le_refl _) lt])
        · rfl
    · next no =>
      rw [ih]
      constructor
      · rintro ⟨le, lt, yes, none⟩
        refine ⟨by omega, by omega, yes, fun m hm ml => ?_⟩
        rcases Nat.lt_or_eq_of_le hm with h | rfl
        · exact none m (by omega) ml
        · simpa using no
      · rintro ⟨le, lt, yes, none⟩
        have ne : i ≠ l := fun eq => no (eq ▸ yes)
        exact ⟨by omega, by omega, yes, fun m hm ml => none m (by omega) ml⟩

theorem firstIndex_none (t : Nat → Bool) (n : Nat) : firstIndex t n 0 = none ↔ ∀ m < n, ¬t m = true := by
  have all (n i : Nat) : firstIndex t n i = none ↔ ∀ m, i ≤ m → m < i + n → ¬t m = true := by
    induction n generalizing i with
    | zero => simp only [firstIndex, true_iff]; omega
    | succ n ih =>
      unfold firstIndex
      split
      · next yes => exact ⟨nofun, fun h => absurd yes (h i (Nat.le_refl _) (by omega))⟩
      · next no =>
        rw [ih]
        refine ⟨fun h m hm ml => ?_, fun h m hm ml => h m (by omega) (by omega)⟩
        rcases Nat.lt_or_eq_of_le hm with lt | rfl
        · exact h m (by omega) (by omega)
        · exact no
  simpa using all n 0

theorem firstStartable_iff (p : Part) (ws : List WinIdx) (w : WinIdx) (l : Nat) :
    p.firstStartable ws = some (w, l) ↔ ∃ before after, ws = before ++ w :: after
      ∧ (∀ v ∈ before, ∀ m < (p.win v).cfg.lines, ¬p.Startable v m)
      ∧ l < (p.win w).cfg.lines ∧ p.Startable w l ∧ ∀ m < l, ¬p.Startable w m := by
  induction ws with
  | nil => simp [Part.firstStartable]
  | cons v vs ih =>
    unfold Part.firstStartable
    split
    · next k found =>
      obtain ⟨-, lt, yes, none⟩ := (firstIndex_iff ..).mp found
      rw [Nat.zero_add] at lt
      have none' : ∀ m < k, ¬p.Startable v m := fun m ml => by simp [← startable_iff, none m (Nat.zero_le _) ml]
      constructor
      · intro h
        cases h
        exact ⟨[], vs, rfl, by simp, lt, (startable_iff ..).mp yes, none'⟩
      · rintro ⟨before, after, split, skipped, -, can, least⟩
        cases before with
        | nil =>
          simp only [List.nil_append, List.cons.injEq] at split
          obtain ⟨rfl, -⟩ := split
          rcases Nat.lt_trichotomy k l with kl | rfl | lk
          · exact absurd ((startable_iff ..).mp yes) (least k kl)
          · rfl
          · exact absurd can (none' l lk)
        | cons b bs =>
          simp only [List.cons_append, List.cons.injEq] at split
          exact absurd ((startable_iff ..).mp yes) (split.1 ▸ skipped b (by simp) k (split.1 ▸ lt))
    · next nothing =>
      have skip : ∀ m < (p.win v).cfg.lines, ¬p.Startable v m := by
        simpa only [startable_iff] using (firstIndex_none ..).mp nothing
      rw [ih]
      constructor
      · rintro ⟨before, after, split, skipped, rest⟩
        exact ⟨v :: before, after, by rw [split]; rfl, by simpa using ⟨skip, skipped⟩, rest⟩
      · rintro ⟨before, after, split, skipped, lt, can, least⟩
        cases before with
        | nil =>
          simp only [List.nil_append, List.cons.injEq] at split
          exact absurd can (split.1 ▸ skip l (split.1 ▸ lt))
        | cons b bs =>
          simp only [List.cons_append, List.cons.injEq] at split
          exact ⟨bs, after, split.2, fun u hu => skipped u (List.mem_cons_of_mem _ hu), lt, can, least⟩

/-- The carry engine's choice, in R117's words. -/
theorem nextCarry_iff (p : Part) (w : WinIdx) (l : Nat) : p.nextCarry = some (w, l) ↔ p.CarryChoice w l := by
  unfold Part.nextCarry Part.CarryChoice
  cases found : p.carry.demand.find? (fun d => p.startable d.window d.line) with
  | none =>
    have skip : ∀ x ∈ p.carry.demand, ¬p.Startable x.window x.line := by
      simpa only [startable_iff] using List.find?_eq_none.mp found
    simp only [firstStartable_iff]
    exact ⟨fun h => .inr ⟨skip, h⟩, fun h => h.elim
      (fun ⟨_, d, _, split, eq, eq', can, _⟩ => absurd (eq.symm ▸ eq'.symm ▸ can) (skip d (by simp [split])))
      fun h => h.2⟩
  | some d =>
    obtain ⟨can, before, after, split, skip⟩ := List.find?_eq_some_iff_append.mp found
    have can' := (startable_iff ..).mp can
    have skip' : ∀ x ∈ before, ¬p.Startable x.window x.line := fun x mem => by
      simpa [← startable_iff] using skip x mem
    simp only [Option.some.injEq, Prod.mk.injEq]
    constructor
    · rintro ⟨rfl, rfl⟩
      exact .inl ⟨before, d, after, split, rfl, rfl, can', skip'⟩
    · rintro (⟨before', d', after', split', rfl, rfl, can'', skip''⟩ | ⟨none, -⟩)
      · rw [split', List.find?_append, List.find?_eq_none.mpr (by simpa only [startable_iff] using skip''),
          Option.none_or, List.find?_cons, (startable_iff ..).mpr can''] at found
        cases found
        exact ⟨rfl, rfl⟩
      · exact absurd can' (none d (by simp [split]))

theorem nextCarry_none (p : Part) : p.nextCarry = none ↔ ∀ w l, ¬p.CarryChoice w l := by
  simp only [Option.eq_none_iff_forall_ne_some, ne_eq, Prod.forall, nextCarry_iff]

/-! ## The ports go on until nothing is left to choose -/

/-- The carry engine stops with 4 carries in flight or no line to choose (R117). -/
theorem carryEngine_done {p : Part} (run : p.device = .running) :
    4 ≤ p.carryEngine.carry.inFlight.length ∨ p.carryEngine.nextCarry = none := by
  have all (n : Nat) (p : Part) (run : p.device = .running) (enough : 4 ≤ p.carry.inFlight.length + n) :
      4 ≤ (Part.beginCarries n p).carry.inFlight.length ∨ (Part.beginCarries n p).nextCarry = none := by
    induction n generalizing p with
    | zero => exact .inl enough
    | succ n ih =>
      unfold Part.beginCarries
      split
      · split
        · next none => exact .inr none
        · refine ih _ run ?_
          simp only [Part.beginCarry, Part.place, List.length_append, List.length_singleton]
          omega
      · next full => exact .inl (Nat.le_of_not_lt fun lt => full ⟨run, lt⟩)
  exact all 4 p run (Nat.le_add_left ..)

/-- The arbiter grants only while an entry is free (R152). -/
theorem grantee_free {d : Down} {r : DownReq} (h : d.grantee = some r) : d.table.length < 32 := by
  obtain ⟨_, c, _, -, can, -⟩ := (grantee_iff d r).mp h
  cases c with
  | publish => exact can.2.free
  | forwarded | carry => obtain ⟨_, _, -, yes, -⟩ := can; exact yes.free

/-- A grant makes an entry: the first of those that the ports then make (R151). -/
theorem grant_table (p : Part) (r : DownReq) : ∃ more, (p.grant r).down.table =
    p.down.table ++ ⟨r, p.timers.count + p.timers.answerLimit.setWidth 32, false⟩ :: more := by
  unfold Part.grant
  split
  · obtain ⟨_, new, _, table, -⟩ := afterPorts_carryEngine (p.issue r)
    exact ⟨new, by rw [table, issue_down]; simp⟩
  · exact ⟨[], by rw [issue_down]⟩

/-- The arbiter stops with no choice left (R155). -/
theorem grantAll_done (p : Part) : p.grantAll.down.grantee = none := by
  have all (n : Nat) (p : Part) (enough : 32 ≤ p.down.table.length + n) : (Part.grants n p).down.grantee = none := by
    induction n generalizing p with
    | zero =>
      unfold Part.grants
      cases h : p.down.grantee with
      | none => rfl
      | some r => exact absurd (grantee_free h) (by omega)
    | succ n ih =>
      unfold Part.grants
      split
      · next none => exact none
      · refine ih _ ?_
        obtain ⟨more, table⟩ := grant_table p ‹DownReq›
        rw [table, List.length_append, List.length_cons]
        omega
  exact all 32 p (Nat.le_add_left ..)

/-- The choice of the carry engine rests on the windows, the banks, the carry work and the redirected writes that wait. -/
theorem nextCarry_congr {p q : Part} (windows : q.windows = p.windows) (banks : q.banks = p.banks) (carry : q.carry = p.carry)
    (waiting : ∀ line, q.redirectWaiting line = p.redirectWaiting line) : q.nextCarry = p.nextCarry := by
  have win : q.win = p.win := by funext w; simp only [Part.win, windows]
  have bank : q.bank = p.bank := by funext w; simp only [Part.bank, win, banks]
  have map : q.carryMap = p.carryMap := by
    funext w
    unfold Part.carryMap
    rw [win, bank]
  have start : q.startable = p.startable := by
    funext w l
    unfold Part.startable Part.carrying
    rw [win, map, carry, waiting]
  have first (ws : List WinIdx) : q.firstStartable ws = p.firstStartable ws := by
    induction ws with
    | nil => rfl
    | cons w ws ih => simp only [Part.firstStartable, start, ih, win]
  simp only [Part.nextCarry, start, first, carry]

/-- The issue of a request that is no redirected write leaves the carry engine's choice alone. -/
theorem nextCarry_issue {p : Part} (i : p.IdsRight) {r : DownReq} (chosen : p.down.grantee = some r)
    (other : r.kind ≠ .redirectedWrite) : (p.issue r).nextCarry = p.nextCarry := by
  have same : (p.issue r).windows = p.windows ∧ (p.issue r).banks = p.banks ∧ (p.issue r).carry = p.carry := by
    unfold Part.issue
    dsimp only
    split <;> exact ⟨rfl, rfl, rfl⟩
  refine nextCarry_congr same.1 same.2.1 same.2.2 fun line => ?_
  unfold Part.redirectWaiting
  rw [issue_down, Bool.eq_iff_iff, List.any_eq_true, List.any_eq_true]
  refine ⟨fun ⟨x, mem, yes⟩ => ⟨x, (List.mem_filter.mp mem).1, yes⟩, fun ⟨x, mem, yes⟩ => ⟨x, ?_, yes⟩⟩
  refine List.mem_filter.mpr ⟨mem, decide_eq_true fun eq => other ?_⟩
  have apart : ((p.down.forwarded ++ p.down.publish ++ p.down.carry).map DownReq.id).Nodup :=
    i.apart.sublist ((List.sublist_append_left ..).map _)
  have kind : x.kind = .redirectedWrite := by
    rw [Bool.and_eq_true] at yes
    simpa using yes.1
  rw [← eq_of_id apart (by simp [mem]) (grantee_waits chosen) eq]
  exact kind

/-- The ports go on until 4 carries are in flight or no line can be chosen (R117). -/
theorem portEnd_done {p : Part} (i : p.IdsRight) (run : p.device = .running) :
    4 ≤ p.portEnd.carry.inFlight.length ∨ p.portEnd.nextCarry = none := by
  have all (n : Nat) (p : Part) (i : p.IdsRight) (run : p.device = .running)
      (done : 4 ≤ p.carry.inFlight.length ∨ p.nextCarry = none) :
      4 ≤ (Part.grants n p).carry.inFlight.length ∨ (Part.grants n p).nextCarry = none := by
    induction n generalizing p with
    | zero => exact done
    | succ n ih =>
      unfold Part.grants
      split
      · exact done
      · next r chosen =>
        have after := afterPorts_grant chosen
        refine ih _ (after.idsRight i) (after.device.trans run) ?_
        unfold Part.grant
        split
        · exact carryEngine_done ((afterPorts_issue chosen).device.trans run)
        · next other =>
          rw [nextCarry_issue i chosen other]
          refine done.imp_left fun full => ?_
          rw [show (p.issue r).carry = p.carry by unfold Part.issue; dsimp only; split <;> rfl]
          exact full
  have after := afterPorts_carryEngine p
  exact all _ _ (after.idsRight i) (after.device.trans run) (carryEngine_done run)

end Sys2Proof.Machine
end

