-- ==== Sys2Proof/Laws/Traffic.lean ====
section
/-! SUPPORT. What a step can do to the requests in the part: the relation `Traffic`, whose rules are the elementary
acts on held, waiting and outstanding requests, on the event queue and on the open count. `Sys2Proof.Laws.Steps`
shows that every command's effect is a chain of these acts, so a law about requests is proved by looking at them
alone. -/

namespace Sys2Proof.Machine

/-- A request that the part owes an answer while it is in neither a queue, a waiting list nor the table: taken or
released and not yet disposed of, or answered by memory and not yet answered upstream. -/
inductive Owed where
  | taken (t : Taken)
  | issued (m : MasterId) (g : Tag)
deriving DecidableEq, Repr

/-- The master and tag of an owed request. -/
def Owed.who : Owed → MasterId × Tag
  | .taken t => (t.req.master, t.req.tag)
  | .issued m g => (m, g)

/-- Two parts that agree on everything the rules of `Traffic` speak of. -/
structure SameTraffic (p q : Part) : Prop where
  device : q.device = p.device
  inFlight : q.carry.inFlight = p.carry.inFlight
  hold : q.hold = p.hold
  events : q.notify.events = p.notify.events
  loss : q.notify.loss = p.notify.loss
  openCount : q.openCount = p.openCount
  down : q.down = p.down
  nextSeq : q.nextSeq = p.nextSeq
  nextId : q.nextId = p.nextId

/-- The acts of the part on its requests: from a part with the requests `h` in hand to a part with `h'` in hand. -/
inductive Traffic : Part → List Owed → Part → List Owed → Prop where
  /-- Nothing the relation speaks of changes. -/
  | same {p q h} (e : SameTraffic p q) : Traffic p h q h
  /-- One act after another. -/
  | trans {p q r h k l} (a : Traffic p h q k) (b : Traffic q k r l) : Traffic p h r l
  /-- An event is posted (R138). -/
  | post {p h} (e : Event) : Traffic p h (p.post e) h
  /-- An event record leaves the queue (R143). -/
  | unpost {p h} (i : Nat) :
    Traffic p h { p with notify := { p.notify with events := p.notify.events.eraseIdx i } } h
  /-- A request is taken, with no other in hand (R147). -/
  | take {p} (r : Request) (room : p.openCount < Config.openLimit) :
    Traffic p [] p.countTake [.taken (p.taken r)]
  /-- A request in hand is answered (R149). -/
  | respond {p h} (o : Owed) (st : RespStatus) (data : List Beat) :
    Traffic p (o :: h) (p.respond o.who.1 o.who.2 st data) h
  /-- A request in hand is held (R125, R127). -/
  | hold {p h} (t : Taken) (why : Reason) (w : WinIdx) (line : HoldLine) (gen : Option GenNum)
    (room : p.canHold t = true) (up : p.device = .running) :
    Traffic p (.taken t :: h) (p.addHeld t why w line gen) h
  /-- A held request leaves the hold queue (R126, R128). -/
  | unhold {p h} (e : HoldEntry) (held : e ∈ p.hold) :
    Traffic p h (p.dropHeld e.seq) (.taken e.released :: h)
  /-- Hold entries are given to another generation (R115). -/
  | regen {p h} (f : HoldEntry → HoldEntry) (keeps : ∀ e, f e = { e with gen := (f e).gen }) :
    Traffic p h { p with hold := p.hold.map f } h
  /-- A request of the part's own is placed (R152). -/
  | placeOwn {p h} (r : DownReq) (own : r.kind.cls ≠ .forwarded) : Traffic p h (p.place r) h
  /-- A request in hand is placed downstream (R152). -/
  | placeFor {p h} (o : Owed) (r : DownReq) (line : Addr) (cls : r.kind.cls = .forwarded)
    (origin : r.origin = .upstream o.who.1 o.who.2 line) : Traffic p (o :: h) (p.place r) h
  /-- A wait of R48 ends. -/
  | endWaits {p h} (w : WinIdx) (lines : Addr → Bool) : Traffic p h (p.endWaits w lines) h
  /-- Requests of the part's own leave their waiting lists without being issued (R79, R86, R93, R123). -/
  | withdraw {p h} (f g : DownReq → Bool) :
    Traffic p h
      { p with down := { p.down with publish := p.down.publish.filter f, carry := p.down.carry.filter g } } h
  /-- The arbiter issues its choice (R155). -/
  | issue {p h} (r : DownReq) (chosen : p.down.grantee = some r) : Traffic p h (p.issue r) h
  /-- The entry of a request of the part's own, or an EXPIRED entry, leaves at its answer (R156, R157). -/
  | answeredOwn {p h} (e : Entry) (mem : e ∈ p.down.table)
    (own : e.expired = true ∨ e.req.kind.cls ≠ .forwarded ∨ e.req.origin = .part) :
    Traffic p h (p.dropEntry e.req.id) h
  /-- The entry of a forwarded request leaves at its answer (R156). -/
  | answeredFor {p} (e : Entry) (m : MasterId) (g : Tag) (line : Addr) (mem : e ∈ p.down.table)
    (live : e.expired = false) (cls : e.req.kind.cls = .forwarded) (origin : e.req.origin = .upstream m g line) :
    Traffic p [] (p.dropEntry e.req.id) [.issued m g]
  /-- The entry of a request of the part's own expires (R157). -/
  | expiredOwn {p h} (e : Entry) (mem : e ∈ p.down.table) (live : e.expired = false)
    (own : e.req.kind.cls ≠ .forwarded ∨ e.req.origin = .part) : Traffic p h (p.markExpired e.req.id) h
  /-- The entry of a forwarded request expires (R157). -/
  | expiredFor {p} (e : Entry) (m : MasterId) (g : Tag) (line : Addr) (mem : e ∈ p.down.table)
    (live : e.expired = false) (cls : e.req.kind.cls = .forwarded) (origin : e.req.origin = .upstream m g line) :
    Traffic p [] (p.markExpired e.req.id) [.issued m g]
  /-- A carry begins (R117). -/
  | carryBegins {p h} (c : Carry) (room : p.carry.inFlight.length < Config.carryLimit) :
    Traffic p h { p with carry := { p.carry with inFlight := p.carry.inFlight ++ [c] } } h
  /-- Carries end (R118, R121). -/
  | carryEnds {p h} (f : Carry → Bool) :
    Traffic p h { p with carry := { p.carry with inFlight := p.carry.inFlight.filter f } } h
  /-- A carry goes on to its write (R118). -/
  | carryGoesOn {p h} (f : Carry → Carry) :
    Traffic p h { p with carry := { p.carry with inFlight := p.carry.inFlight.map f } } h
  /-- The device becomes RESTARTING with its hold queue answered (R165, R133). -/
  | restart {p h} (answered : p.hold = []) : Traffic p h { p with device := .restarting } h
  /-- The warm reset completes (R168). -/
  | complete {p h} (restarting : p.device = .restarting) : Traffic p h p.complete h
  /-- RESETn goes low (R169). -/
  | coldReset {p} : Traffic p [] p.coldReset []

namespace Traffic

/-- Every part stands as it is. -/
theorem refl (p : Part) (h : List Owed) : Traffic p h p h := .same ⟨rfl, rfl, rfl, rfl, rfl, rfl, rfl, rfl, rfl⟩

/-- A chain of acts before an act on the outcome. -/
theorem andThen {p q r : Part} {h k l : List Owed} (b : Traffic q k r l) (a : Traffic p h q k) : Traffic p h r l :=
  .trans a b

end Traffic

end Sys2Proof.Machine
end

