-- ==== Sys2Proof/Laws/Steps.lean ====
section
/-! SUPPORT. Every operation of the machine, and every command, is a chain of the acts of `Traffic`. -/

namespace Sys2Proof.Machine

theorem List.filter_true' {α : Type} (l : List α) : l.filter (fun _ => true) = l :=
  List.filter_eq_self.mpr fun _ _ => rfl

namespace SameTraffic

theorem rfl' (p : Part) : SameTraffic p p := ⟨rfl, rfl, rfl, rfl, rfl, rfl, rfl, rfl, rfl⟩

theorem trans {p q r : Part} (a : SameTraffic p q) (b : SameTraffic q r) : SameTraffic p r :=
  ⟨b.1.trans a.1, b.2.trans a.2, b.3.trans a.3, b.4.trans a.4, b.5.trans a.5, b.6.trans a.6, b.7.trans a.7,
    b.8.trans a.8, b.9.trans a.9⟩

theorem after {p q r : Part} (b : SameTraffic q r) (a : SameTraffic p q) : SameTraffic p r := a.trans b

theorem setWin (p : Part) (w : WinIdx) (win : Window) : SameTraffic p (p.setWin w win) :=
  ⟨rfl, rfl, rfl, rfl, rfl, rfl, rfl, rfl, rfl⟩

theorem updWin (p : Part) (w : WinIdx) (f : Window → Window) : SameTraffic p (p.updWin w f) := setWin p w _

theorem setBank (p : Part) (w : WinIdx) (b : Bank) : SameTraffic p (p.setBank w b) :=
  ⟨rfl, rfl, rfl, rfl, rfl, rfl, rfl, rfl, rfl⟩

theorem freeSlotCount (p : Part) (n : Nat) : SameTraffic p (p.freeSlotCount n) :=
  ⟨rfl, rfl, rfl, rfl, rfl, rfl, rfl, rfl, rfl⟩

theorem oweOffer (p : Part) : SameTraffic p p.oweOffer := ⟨rfl, rfl, rfl, rfl, rfl, rfl, rfl, rfl, rfl⟩

theorem joinCarryOrder (p : Part) (w : WinIdx) : SameTraffic p (p.joinCarryOrder w) := by
  unfold Part.joinCarryOrder
  split
  · exact rfl' p
  · exact ⟨rfl, rfl, rfl, rfl, rfl, rfl, rfl, rfl, rfl⟩

theorem leaveCarryOrder (p : Part) (w : WinIdx) : SameTraffic p (p.leaveCarryOrder w) :=
  ⟨rfl, rfl, rfl, rfl, rfl, rfl, rfl, rfl, rfl⟩

theorem prime (p : Part) (w : WinIdx) : SameTraffic p (p.prime w) := by
  unfold Part.prime
  split
  · exact rfl' p
  · exact (setBank p w _).trans (joinCarryOrder _ w)

theorem returnDirty (p : Part) (w : WinIdx) : SameTraffic p (p.returnDirty w) := by
  unfold Part.returnDirty
  split
  · exact (setBank p w _).trans (joinCarryOrder _ w)
  · exact rfl' p

theorem leaveQueue (p : Part) (w : WinIdx) : SameTraffic p (p.leaveQueue w) :=
  ⟨rfl, rfl, rfl, rfl, rfl, rfl, rfl, rfl, rfl⟩

theorem joinQueue (p : Part) (w : WinIdx) : SameTraffic p (p.joinQueue w) :=
  ⟨rfl, rfl, rfl, rfl, rfl, rfl, rfl, rfl, rfl⟩

theorem discardOpen (p : Part) (w : WinIdx) : SameTraffic p (p.discardOpen w) :=
  (freeSlotCount p _).trans (updWin _ w _)

theorem clearMaps (p : Part) (w : WinIdx) : SameTraffic p (p.clearMaps w) := by
  unfold Part.clearMaps
  split
  · exact setBank p w _
  · exact rfl' p

theorem offerImmediate (p : Part) (w : WinIdx) : SameTraffic p (p.offerImmediate w) := by
  unfold Part.offerImmediate
  split
  · exact joinQueue p w
  · exact rfl' p

theorem updWork (p : Part) (f : Work → Work) : SameTraffic p (p.updWork f) :=
  ⟨rfl, rfl, rfl, rfl, rfl, rfl, rfl, rfl, rfl⟩

theorem setPubState (p : Part) (w : WinIdx) (st : GenState) : SameTraffic p (p.setPubState w st) := updWin p w _

theorem endPublication (p : Part) (w : WinIdx) : SameTraffic p (p.endPublication w) :=
  ⟨rfl, rfl, rfl, rfl, rfl, rfl, rfl, rfl, rfl⟩

theorem countArrival (p : Part) (w : WinIdx) (m : MasterId) : SameTraffic p (p.countArrival w m) := updWin p w _

theorem pendClose (p : Part) (w : WinIdx) : SameTraffic p (p.pendClose w) := updWin p w _

theorem sample (p : Part) (l : StrobeLine) (v : Level) : SameTraffic p (p.sample l v) := by
  cases l <;> exact ⟨rfl, rfl, rfl, rfl, rfl, rfl, rfl, rfl, rfl⟩

end SameTraffic

namespace Traffic

variable {p q : Part} {h k l : List Owed}

/-- An act, then a change that the relation does not see. -/
theorem thenSame (a : Traffic p h q k) {r : Part} (e : SameTraffic q r) : Traffic p h r k := .trans a (.same e)

/-- A change that the relation does not see, then an act. -/
theorem sameThen {r : Part} (e : SameTraffic p q) (a : Traffic q h r k) : Traffic p h r k := .trans (.same e) a

theorem postWindow (p : Part) (h : List Owed) (w : WinIdx) (k : EventKind) : Traffic p h (p.postWindow w k) h :=
  .post _

theorem postDevice (p : Part) (h : List Owed) (k : EventKind) : Traffic p h (p.postDevice k) h := .post _

theorem answer (p : Part) (h : List Owed) (t : Taken) (st : RespStatus) :
    Traffic p (.taken t :: h) (p.answer t.req st) h := .respond (.taken t) st []

theorem answerData (p : Part) (h : List Owed) (t : Taken) (data : List Beat) :
    Traffic p (.taken t :: h) (p.answerData t.req data) h := .respond (.taken t) .okay data

/-! ## Holding, answering in place and releasing -/

theorem holdOrRetry (p : Part) (h : List Owed) (t : Taken) (why : Reason) (w : WinIdx) (line : HoldLine)
    (up : p.device = .running) : Traffic p (.taken t :: h) (p.holdOrRetry t why w line) h := by
  unfold Part.holdOrRetry
  split
  · next room => exact .hold t why w line none room up
  · exact answer p h t .retry

theorem answerEach (st : RespStatus) (qs : List Nat) (p : Part) (h : List Owed) :
    Traffic p h (Machine.answerEach st qs p) h := by
  induction qs generalizing p with
  | nil => exact refl p h
  | cons q qs ih =>
    unfold Machine.answerEach
    split
    · exact ih p
    · next e found =>
      have seq : e.seq = q := by simpa using List.find?_some found
      refine .trans ?_ (ih _)
      subst seq
      exact .trans (.unhold e (List.mem_of_find?_eq_some found)) (answer _ h e.released st)

theorem answerWhere (p : Part) (h : List Owed) (which : HoldEntry → Bool) (st : RespStatus) :
    Traffic p h (p.answerWhere which st) h := answerEach st _ p h

/-- What is asked of the function that serves a released request. -/
def Serves (serve : Part → Taken → Part) : Prop :=
  ∀ (p : Part) (h : List Owed) (t : Taken), Traffic p (.taken t :: h) (serve p t) h

theorem releaseEach {serve : Part → Taken → Part} (good : Serves serve) (why : Reason) (qs : List Nat) (p : Part)
    (h : List Owed) : Traffic p h (Machine.releaseEach serve why qs p) h := by
  induction qs generalizing p with
  | nil => exact refl p h
  | cons q qs ih =>
    unfold Machine.releaseEach
    split
    · exact ih p
    · next e found =>
      have seq : e.seq = q := by
        have := List.find?_some found
        simp only [Bool.and_eq_true, decide_eq_true_eq] at this
        exact this.1
      refine .trans ?_ (ih _)
      subst seq
      exact .trans (.unhold e (List.mem_of_find?_eq_some found)) (good _ h e.released)

theorem releaseHeld {serve : Part → Taken → Part} (good : Serves serve) (p : Part) (h : List Owed) (w : WinIdx)
    (why : Reason) (which : HoldEntry → Bool) : Traffic p h (p.releaseHeld serve w why which) h :=
  releaseEach good why _ p h

/-! ## Windows going OFF and HALTED -/

theorem stopCheck (p : Part) (h : List Owed) (w : WinIdx) : Traffic p h (p.stopCheck w) h := by
  unfold Part.stopCheck
  split
  · exact refl p h
  · next k _ =>
    split
    · exact .trans (.withdraw (fun r => some r.id ≠ k.guardRead) (fun _ => true))
        (.same ⟨rfl, rfl, rfl, rfl, rfl, rfl, by rw [List.filter_true'], rfl, rfl⟩)
    · exact refl p h

theorem discardUnseen (p : Part) (h : List Owed) (w : WinIdx) : Traffic p h (p.discardUnseen w) h := by
  unfold Part.discardUnseen
  split
  · exact sameThen (((SameTraffic.freeSlotCount p _).trans (.updWin _ w _)).trans (.leaveQueue _ w)) (stopCheck _ h w)
  · exact refl p h

theorem dropCarryWork (p : Part) (h : List Owed) (w : WinIdx) : Traffic p h (p.dropCarryWork w) h := by
  refine .trans (.carryEnds fun c => c.window ≠ w) (.trans (.withdraw (fun _ => true) (fun r => r.window ≠ some w)) ?_)
  exact .same ⟨rfl, rfl, rfl, rfl, rfl, rfl, by rw [List.filter_true']; rfl, rfl, rfl⟩

theorem halt (p : Part) (h : List Owed) (w : WinIdx) : Traffic p h (p.halt w) h :=
  .trans
    (thenSame
      (.trans (thenSame (sameThen (.discardOpen p w) (discardUnseen _ h w)) (.clearMaps _ w)) (dropCarryWork _ h w))
      (.updWin _ w _))
    (answerWhere _ h _ _)

theorem goHalted (p : Part) (h : List Owed) (w : WinIdx) : Traffic p h (p.goHalted w) h := by
  unfold Part.goHalted
  split
  · exact refl p h
  · exact halt p h w

theorem goOff (p : Part) (h : List Owed) (w : WinIdx) : Traffic p h (p.goOff w) h :=
  .trans
    (sameThen
      ((((SameTraffic.discardOpen p w).trans (.clearMaps _ w)).trans (.leaveCarryOrder _ w)).trans (.updWin _ w _))
      (answerWhere _ h _ _))
    (postWindow _ h w _)

theorem retireIfDone (p : Part) (h : List Owed) (w : WinIdx) : Traffic p h (p.retireIfDone w) h := by
  unfold Part.retireIfDone
  split
  · split
    · exact goHalted p h w
    · exact goOff p h w
  · exact refl p h

theorem haltCause (p : Part) (h : List Owed) (w : WinIdx) : Traffic p h (p.haltCause w) h := by
  unfold Part.haltCause
  repeat' split
  all_goals first | exact refl p h | exact .same (.updWin p w _) | exact goHalted p h w

theorem carryEmptied (p : Part) (h : List Owed) (w : WinIdx) : Traffic p h (p.carryEmptied w) h := by
  unfold Part.carryEmptied
  split
  · exact sameThen ((SameTraffic.leaveCarryOrder p w).trans (.offerImmediate _ w)) (retireIfDone _ h w)
  · exact refl p h

/-! ## Serving a request -/

theorem placePass (p : Part) (h : List Owed) (t : Taken) : Traffic p (.taken t :: h) (p.placePass t.req) h := by
  refine .placeFor (.taken t) _ (lineOf t.req.addr) ?_ rfl
  cases t.req.op <;> rfl

theorem placeView (p : Part) (h : List Owed) (t : Taken) (w : WinIdx) (line reported : Addr) (read : ReadPart) :
    Traffic p (.taken t :: h) (p.placeView t.req w line reported read) h :=
  .placeFor (.taken t) _ reported rfl rfl

theorem redirect (p : Part) (h : List Owed) (t : Taken) (w : WinIdx) (l : Nat) :
    Traffic p (.taken t :: h) (p.redirect t.req w l) h :=
  sameThen (.setBank p w _) (.placeFor (.taken t) _ _ rfl rfl)

theorem noteExhausted (p : Part) (h : List Owed) (w : WinIdx) (r : Request) (o : ExhaustOutcome) :
    Traffic p h (p.noteExhausted w r o) h := by
  unfold Part.noteExhausted
  split
  · exact thenSame (postWindow p h w _) (.updWin _ w _)
  · exact refl p h

theorem canHold_noteExhausted (p : Part) (t : Taken) (w : WinIdx) (r : Request) (o : ExhaustOutcome) :
    (p.noteExhausted w r o).canHold t = p.canHold t := by
  unfold Part.noteExhausted
  split <;> rfl

theorem device_noteExhausted (p : Part) (w : WinIdx) (r : Request) (o : ExhaustOutcome) :
    (p.noteExhausted w r o).device = p.device := by
  unfold Part.noteExhausted
  split <;> rfl

theorem exhaust (p : Part) (h : List Owed) (t : Taken) (w : WinIdx) (l : Nat) (up : p.device = .running) :
    Traffic p (.taken t :: h) (p.exhaust t w l) h := by
  unfold Part.exhaust
  split
  · exact .trans (noteExhausted p _ w _ _) (answer _ h t _)
  · split
    · next room =>
      exact .trans (noteExhausted p _ w _ _)
        (.hold t _ w _ none ((canHold_noteExhausted p t w _ _).trans room) ((device_noteExhausted p w _ _).trans up))
    · exact .trans (noteExhausted p _ w _ _) (answer _ h t _)

theorem admitWrite (p : Part) (h : List Owed) (t : Taken) (w : WinIdx) (l : Nat) (up : p.device = .running) :
    Traffic p (.taken t :: h) (p.admitWrite t w l) h := by
  unfold Part.admitWrite
  split
  · exact answer p h t .okay
  · split
    · exact exhaust p h t w l up
    · split
      · exact sameThen (.updWin p w _) (answer _ h t .okay)
      · split
        · exact sameThen (SameTraffic.trans (q := { p with freeSlots := p.freeSlots - 1 })
            ⟨rfl, rfl, rfl, rfl, rfl, rfl, rfl, rfl, rfl⟩ (.updWin _ w _)) (answer _ h t .okay)
        · exact exhaust p h t w l up

/-! ### Reads -/

theorem consumerRead (p : Part) (h : List Owed) (t : Taken) (w : WinIdx) :
    Traffic p (.taken t :: h) (p.consumerRead t.req w) h := by
  unfold Part.consumerRead
  dsimp only
  split
  · split
    · exact answerData p h t _
    · exact placeView p h t w _ _ _
  · exact placeView p h t w _ _ _

theorem producerRead (p : Part) (h : List Owed) (t : Taken) (w : WinIdx) :
    Traffic p (.taken t :: h) (p.producerRead t.req w) h := by
  unfold Part.producerRead
  dsimp only
  repeat' split
  all_goals first | exact answerData p h t _ | exact placeView p h t w _ _ _

theorem stagedProducerRead (p : Part) (h : List Owed) (t : Taken) (w : WinIdx) (on : (p.win w).state ≠ .off) :
    Traffic p (.taken t :: h) (p.stagedProducerRead t.req w) h := by
  unfold Part.stagedProducerRead
  split
  · next off => exact absurd off on
  · exact producerRead p h t w
  · exact producerRead p h t w
  · exact consumerRead p h t w

theorem flipConsumerRead (p : Part) (h : List Owed) (t : Taken) (w : WinIdx) (l : Nat) :
    Traffic p (.taken t :: h) (p.flipConsumerRead t.req w l) h := placeView p h t w _ _ _

theorem flipProducerRead (p : Part) (h : List Owed) (t : Taken) (w : WinIdx) (l : Nat) :
    Traffic p (.taken t :: h) (p.flipProducerRead t.req w l) h := by
  unfold Part.flipProducerRead
  repeat' split
  all_goals first | exact flipConsumerRead p h t w l | exact placeView p h t w _ _ _

/-! ### Writes -/

theorem refuseWrite (p : Part) (h : List Owed) (t : Taken) (w : WinIdx) (line : Addr) :
    Traffic p (.taken t :: h) (p.refuseWrite t.req w line) h := .trans (answer p h t _) (postWindow _ h w _)

theorem stagedWrite (p : Part) (h : List Owed) (t : Taken) (w : WinIdx) (l : Nat) (up : p.device = .running)
    (on : (p.win w).state ≠ .off) : Traffic p (.taken t :: h) (p.stagedWrite t w l) h := by
  unfold Part.stagedWrite
  split
  · next off => exact absurd off on
  · split
    · exact holdOrRetry p h t _ w _ up
    · exact admitWrite p h t w l up
  · exact answer p h t _
  · exact answer p h t _

theorem holdCarry (p : Part) (h : List Owed) (t : Taken) (w : WinIdx) (l : Nat) (up : p.device = .running) :
    Traffic p (.taken t :: h) (p.holdCarry t w l) h := by
  unfold Part.holdCarry
  split
  · next room =>
    exact thenSame (.hold t .carry w (.view l) none room up) ⟨rfl, rfl, rfl, rfl, rfl, rfl, rfl, rfl, rfl⟩
  · exact answer p h t _

theorem cancelCarry (p : Part) (h : List Owed) (t : Taken) (w : WinIdx) (l : Nat) :
    Traffic p (.taken t :: h) (p.cancelCarry t.req w l) h :=
  .trans (sameThen (.setBank p w _) (redirect _ h t w l)) (carryEmptied _ h w)

theorem flipAdmit (p : Part) (h : List Owed) (t : Taken) (w : WinIdx) (l : Nat) (up : p.device = .running) :
    Traffic p (.taken t :: h) (p.flipAdmit t w l) h := by
  unfold Part.flipAdmit
  repeat' split
  · exact holdOrRetry p h t _ w _ up
  · exact answer p h t _
  · exact cancelCarry p h t w l
  · exact holdCarry p h t w l up
  · exact redirect p h t w l

theorem flipWrite (p : Part) (h : List Owed) (t : Taken) (w : WinIdx) (l : Nat) (up : p.device = .running)
    (on : (p.win w).state ≠ .off) : Traffic p (.taken t :: h) (p.flipWrite t w l) h := by
  unfold Part.flipWrite
  split
  · next off => exact absurd off on
  · split
    · exact holdOrRetry p h t _ w _ up
    · exact flipAdmit p h t w l up
  · exact answer p h t _
  · exact answer p h t _

/-! ### Arrivals -/

/-- What is asked of the function that carries out a close. -/
def Closes (close : Part → WinIdx → Part) : Prop := ∀ (p : Part) (h : List Owed) (w : WinIdx), Traffic p h (close p w) h

theorem reachClose {close : Part → WinIdx → Part} (good : Closes close) (p : Part) (h : List Owed) (w : WinIdx)
    (v : BitVec 32) : Traffic p h (Part.reachClose close p w v) h := by
  unfold Part.reachClose
  dsimp only
  split
  · exact sameThen (.updWin p w _) (good _ h w)
  · exact .same ((SameTraffic.updWin p w _).trans (.updWin _ w _))

theorem arrive {close : Part → WinIdx → Part} (good : Closes close) (p : Part) (h : List Owed) (t : Taken) (w : WinIdx)
    (up : p.device = .running) : Traffic p (.taken t :: h) (Part.arrive close p t w) h := by
  unfold Part.arrive
  split
  · exact holdOrRetry p h t _ w _ up
  · split
    · exact holdOrRetry p h t _ w _ up
    · split
      · exact sameThen (.countArrival p w _) (.trans (reachClose good _ _ w _) (answer _ h t _))
      · split
        · next room =>
          have held : ∀ gen, Traffic p (.taken t :: h)
              ((p.countArrival w t.req.master).addHeld t .close w .commit gen) h :=
            fun gen => sameThen (.countArrival p w _) (.hold t .close w .commit gen room up)
          dsimp only
          split
          · exact .trans (held _) (reachClose good _ h w _)
          · exact held _
        · exact answer p h t _

theorem commitArrival {close : Part → WinIdx → Part} (good : Closes close) (p : Part) (h : List Owed) (t : Taken)
    (w : WinIdx) (up : p.device = .running) (on : (p.win w).state ≠ .off) :
    Traffic p (.taken t :: h) (Part.commitArrival close p t w) h := by
  unfold Part.commitArrival
  split
  · exact refuseWrite p h t w _
  · split
    · next off => exact absurd off on
    · exact arrive good p h t w up
    · exact answer p h t _
    · exact answer p h t _

end Traffic

/-! ## The class of a request names a window that is not OFF -/

/-- The window a class names. -/
def RequestClass.window : RequestClass → Option WinIdx
  | .passThrough => none
  | .stagedProducerWrite w _ | .stagedProducerRead w _ | .stagedConsumerRead w _ | .stagedConsumerWrite w _
  | .flipProducerWrite w _ | .flipProducerRead w _ | .flipConsumerRead w _ | .flipConsumerWrite w _
  | .commitArrival w | .commitStatusRead w | .commitMalformed w => some w

theorem window_classIn (win : Window) (w : WinIdx) (line : HoldLine) (r : Request) :
    (classIn win w line r).window = some w := by
  unfold classIn
  repeat' split
  all_goals rfl

/-- The window that claims a line is not OFF (R4). -/
theorem claimant_on {windows : Vector Window 16} {line : Addr} {ws : List WinIdx} {w : WinIdx} {l : HoldLine}
    (found : claimant windows line ws = some (w, l)) : windows[w].state ≠ .off := by
  induction ws with
  | nil => simp [claimant] at found
  | cons v vs ih =>
    unfold claimant at found
    split at found
    · next hit =>
      simp only [Option.some.injEq, Prod.mk.injEq] at found
      obtain ⟨rfl, rfl⟩ := found
      intro off
      have none : windows[v].lineAtAddr line = none := by unfold Window.lineAtAddr; rw [if_pos off]
      rw [none] at hit
      cases hit
    · exact ih found

/-- A request classified into a window finds it not OFF (R39). -/
theorem classify_on {windows : Vector Window 16} {r : Request} {w : WinIdx}
    (into : (classify windows r).window = some w) : windows[w].state ≠ .off := by
  unfold classify at into
  split at into
  · simp [RequestClass.window] at into
  · next v l found =>
    rw [window_classIn] at into
    cases into
    exact claimant_on found

namespace Traffic

variable {p q : Part} {h k l : List Owed}

theorem serveWith {close : Part → WinIdx → Part} (good : Closes close) : Serves (Part.serveWith close) := by
  intro p h t
  unfold Part.serveWith
  have on : ∀ w, (classify p.windows t.req).window = some w → (p.win w).state ≠ .off := fun w => classify_on
  revert on
  generalize classify p.windows t.req = c
  intro on
  split
  · exact placePass p h t
  · split
    · exact answer p h t _
    · next up =>
      unfold Part.serveClass
      split
      · exact placePass p h t
      · exact stagedWrite p h t _ _ up (on _ rfl)
      · exact stagedProducerRead p h t _ (on _ rfl)
      · exact consumerRead p h t _
      · exact refuseWrite p h t _ _
      · exact flipWrite p h t _ _ up (on _ rfl)
      · exact flipProducerRead p h t _ _
      · exact flipConsumerRead p h t _ _
      · exact refuseWrite p h t _ _
      · exact commitArrival good p h t _ up (on _ rfl)
      · exact answerData p h t _
      · exact answer p h t _

theorem serveReleased : Serves Part.serveReleased := serveWith fun p _ w => .same (.pendClose p w)

theorem carryOutClose : Closes Part.carryOutClose := by
  intro p h w
  unfold Part.carryOutClose
  split
  · exact refl p h
  · exact thenSame
      (.trans (sameThen (.updWin p w _) (answerWhere _ h _ _)) (releaseHeld serveReleased _ h w _ _))
      (.offerImmediate _ w)

theorem serve : Serves Part.serve := serveWith carryOutClose

theorem closeIfPending (p : Part) (h : List Owed) (w : WinIdx) : Traffic p h (p.closeIfPending w) h := by
  unfold Part.closeIfPending
  split
  · exact refl p h
  · split
    · exact carryOutClose p h w
    · exact refl p h

/-! ## The publish engine -/

theorem afterRelease (p : Part) (h : List Owed) (w : WinIdx) : Traffic p h (p.afterRelease w) h := by
  unfold Part.afterRelease
  dsimp only
  refine .trans (closeIfPending p h w) (.trans ?_ (retireIfDone _ h w))
  split
  · exact goHalted _ h w
  · exact refl _ h

theorem release (p : Part) (h : List Owed) (k : Work) : Traffic p h (p.release k) h :=
  .trans (thenSame (sameThen (.updWin p _ _) (postWindow _ h _ _)) (.endPublication _ _)) (afterRelease _ h _)

theorem placeStamp (p : Part) (h : List Owed) (k : Work) : Traffic p h (p.placeStamp k) h := by
  unfold Part.placeStamp
  exact .placeOwn _ (by simp [DownKind.cls])

theorem enterStamping (p : Part) (h : List Owed) (k : Work) : Traffic p h (p.enterStamping k) h := by
  unfold Part.enterStamping
  dsimp only
  split
  · exact (placeStamp _ h k).andThen (.same ((SameTraffic.setPubState p _ _).trans (.updWork _ _)))
  · exact (release _ h k).andThen (.same ((SameTraffic.setPubState p _ _).trans (.updWork _ _)))

theorem stampTorn (p : Part) (h : List Owed) (k : Work) : Traffic p h (p.stampTorn k) h :=
  .trans (thenSame (postWindow p h _ _) (.endPublication _ _)) (goHalted _ h _)

theorem placeDrain (k : Work) (slots : List Slot) (p : Part) (h : List Owed) :
    Traffic p h (slots.foldl (fun q s => q.place (drainRequest k s)) p) h := by
  induction slots generalizing p with
  | nil => exact refl p h
  | cons s ss ih => exact .trans (.placeOwn (drainRequest k s) (by simp [drainRequest, DownKind.cls])) (ih _)

theorem enterDraining (p : Part) (h : List Owed) (k : Work) : Traffic p h (p.enterDraining k) h := by
  unfold Part.enterDraining
  dsimp only
  split
  · exact (enterStamping _ h _).andThen (.same ((SameTraffic.setPubState p _ _).trans (.updWork _ _)))
  · exact (placeDrain _ _ _ h).andThen (.same ((SameTraffic.setPubState p _ _).trans (.updWork _ _)))

theorem tornIfEnded (p : Part) (h : List Owed) (k : Work) : Traffic p h (p.tornIfEnded k) h := by
  unfold Part.tornIfEnded
  split
  · exact .trans
      (thenSame (.trans (sameThen (.freeSlotCount p _) (.endWaits _ _)) (postWindow _ h _ _)) (.endPublication _ _))
      (haltCause _ h _)
  · exact refl p h

theorem drainOkay (p : Part) (h : List Owed) (k : Work) (line : Addr) : Traffic p h (p.drainOkay k line) h := by
  unfold Part.drainOkay
  have freed : ∀ n f g lines, Traffic p h
      ((((p.freeSlotCount n).updWin k.window f).endWaits k.window lines).updWork g) h := fun n f g lines =>
    thenSame (sameThen ((SameTraffic.freeSlotCount p n).trans (.updWin _ k.window f)) (.endWaits k.window lines))
      (.updWork _ g)
  dsimp only
  split
  · split
    · exact (enterStamping _ h _).andThen (freed _ _ _ _)
    · exact freed _ _ _ _
  · exact (tornIfEnded _ h _).andThen (freed _ _ _ _)

theorem withdrawDrains (p : Part) (h : List Owed) : Traffic p h p.withdrawDrains h :=
  .trans (.withdraw (fun r => r.kind ≠ .drainWrite) (fun _ => true))
    (.same ⟨rfl, rfl, rfl, rfl, rfl, rfl, by rw [List.filter_true']; rfl, rfl, rfl⟩)

theorem drainFail (p : Part) (h : List Owed) (k : Work) (line : Addr) : Traffic p h (p.drainFail k line) h := by
  unfold Part.drainFail
  have ended : ∀ lines g, Traffic p h ((p.endWaits k.window lines).updWork g) h := fun lines g =>
    thenSame (.endWaits k.window lines) (.updWork _ g)
  dsimp only
  refine (tornIfEnded _ h _).andThen ?_
  split
  · exact (withdrawDrains _ h).andThen (ended _ _)
  · exact ended _ _

theorem flip (p : Part) (h : List Owed) (k : Work) : Traffic p h (p.flip k) h :=
  .trans
    (sameThen (((SameTraffic.setBank p _ _).trans (.updWin _ _ _)).trans (.joinCarryOrder _ _)) (enterStamping _ h k))
    (releaseHeld serveReleased _ h _ _ _)

theorem passCheck (p : Part) (h : List Owed) (k : Work) : Traffic p h (p.passCheck k) h := by
  unfold Part.passCheck
  split
  · exact enterDraining p h k
  · exact flip p h k

theorem beginCheck (p : Part) (h : List Owed) : Traffic p h p.beginCheck h := by
  unfold Part.beginCheck
  split
  · exact refl p h
  · split
    · split
      · exact sameThen (.updWork p _) (passCheck _ h _)
      · exact (Traffic.placeOwn _ (by simp [guardRequest, DownKind.cls])).andThen (.same (.updWork p _))
    · exact refl p h

theorem postRejected (p : Part) (h : List Owed) (w : WinIdx) (g : GenNum) (why : RejectReason) (act : RejectAction) :
    Traffic p h (p.postRejected w g why act) h := thenSame (postWindow p h w _) (.updWin _ w _)

theorem rejectStaged (p : Part) (h : List Owed) (w : WinIdx) (g : Gen) (why : RejectReason) :
    Traffic p h (p.rejectStaged w g why) h := by
  unfold Part.rejectStaged
  split
  · exact sameThen ((SameTraffic.freeSlotCount p _).trans (.updWin _ w _)) (postRejected _ h w _ _ _)
  · exact sameThen ((SameTraffic.freeSlotCount p _).trans (.updWin _ w _)) (postRejected _ h w _ _ _)

theorem rejectFlip (p : Part) (h : List Owed) (w : WinIdx) (g : Gen) (why : RejectReason) :
    Traffic p h (p.rejectFlip w g why) h := by
  unfold Part.rejectFlip
  split
  · dsimp only
    refine sameThen (.updWin p w _) (.trans (.regen _ ?_) (.trans (releaseHeld serveReleased _ h w _ _)
      (postRejected _ h w _ _ _)))
    intro e
    split <;> rfl
  · exact sameThen ((SameTraffic.updWin p w _).trans (.returnDirty _ w)) (postRejected _ h w _ _ _)

theorem reject (p : Part) (h : List Owed) (k : Work) (why : RejectReason) : Traffic p h (p.reject k why) h := by
  unfold Part.reject
  dsimp only
  refine sameThen (q := { p with engine := none }) ⟨rfl, rfl, rfl, rfl, rfl, rfl, rfl, rfl, rfl⟩ ?_
  split
  · exact refl _ h
  · refine .trans ?_ (.trans (closeIfPending _ h _) (retireIfDone _ h _))
    split
    · exact rejectStaged _ h _ _ _
    · exact rejectFlip _ h _ _ _

theorem guardEnds (p : Part) (h : List Owed) (id : Nat) (a : MemAnswer) : Traffic p h (p.guardEnds id a) h := by
  unfold Part.guardEnds
  repeat' split
  all_goals first | exact refl p h | exact reject p h _ _ | exact passCheck p h _

theorem drainEnds (p : Part) (h : List Owed) (line : Addr) (a : MemAnswer) : Traffic p h (p.drainEnds line a) h := by
  unfold Part.drainEnds
  repeat' split
  all_goals first | exact refl p h | exact drainOkay p h _ _ | exact drainFail p h _ _

theorem stampEnds (p : Part) (h : List Owed) (a : MemAnswer) : Traffic p h (p.stampEnds a) h := by
  unfold Part.stampEnds
  repeat' split
  all_goals first | exact refl p h | exact release p h _ | exact stampTorn p h _

theorem takeHead (p : Part) (h : List Owed) : Traffic p h p.takeHead h := by
  unfold Part.takeHead
  split
  · split
    · exact .same ⟨rfl, rfl, rfl, rfl, rfl, rfl, rfl, rfl, rfl⟩
    · exact (beginCheck _ h).andThen
        (.same ((SameTraffic.setPubState _ _ _).after ⟨rfl, rfl, rfl, rfl, rfl, rfl, rfl, rfl, rfl⟩))
  · exact refl p h

theorem takeAll (n : Nat) (p : Part) (h : List Owed) : Traffic p h (Part.takeAll n p) h := by
  induction n generalizing p with
  | zero => exact refl p h
  | succ n ih =>
    unfold Part.takeAll
    split
    · exact .trans (takeHead p h) (ih _)
    · exact refl p h

/-! ## The end of an event -/

theorem offerPass (n : Nat) (p : Part) (h : List Owed) : Traffic p h (Part.offerPass n p) h := by
  induction n generalizing p with
  | zero => exact refl p h
  | succ n ih =>
    unfold Part.offerPass
    split
    · exact refl p h
    · split
      · exact refl p h
      · next e found =>
        exact .trans (.trans (.unhold e (List.mem_of_find?_eq_some found)) (serveReleased _ h e.released)) (ih _)

theorem offerIfDue (p : Part) (h : List Owed) : Traffic p h p.offerIfDue h := by
  unfold Part.offerIfDue
  split
  · exact sameThen (q := { p with offerDue := false }) ⟨rfl, rfl, rfl, rfl, rfl, rfl, rfl, rfl, rfl⟩ (offerPass _ _ h)
  · exact refl p h

theorem beginCarries (n : Nat) (p : Part) (h : List Owed) : Traffic p h (Part.beginCarries n p) h := by
  induction n generalizing p with
  | zero => exact refl p h
  | succ n ih =>
    unfold Part.beginCarries
    split
    · next can =>
      split
      · exact refl p h
      · exact .trans (.trans (.carryBegins _ can.2) (.placeOwn _ (by simp [Part.carryReadRequest, DownKind.cls]))) (ih _)
    · exact refl p h

theorem carryEngine (p : Part) (h : List Owed) : Traffic p h p.carryEngine h := beginCarries _ p h

theorem grants (n : Nat) (p : Part) (h : List Owed) : Traffic p h (Part.grants n p) h := by
  induction n generalizing p with
  | zero => exact refl p h
  | succ n ih =>
    unfold Part.grants
    split
    · exact refl p h
    · next r chosen =>
      refine .trans ?_ (ih _)
      unfold Part.grant
      split
      · exact .trans (.issue r chosen) (carryEngine _ h)
      · exact .issue r chosen

theorem grantAll (p : Part) (h : List Owed) : Traffic p h p.grantAll h := grants _ p h

theorem completeIfSettled (p : Part) (h : List Owed) : Traffic p h p.completeIfSettled h := by
  unfold Part.completeIfSettled
  split
  · next settled =>
    refine .complete ?_
    simp only [Part.restartSettled, Bool.and_eq_true, decide_eq_true_eq] at settled
    exact settled.1.1.1
  · exact refl p h

theorem portEnd (p : Part) (h : List Owed) : Traffic p h p.portEnd h := .trans (carryEngine p h) (grantAll _ h)

theorem eventEnd (p : Part) (h : List Owed) : Traffic p h p.eventEnd h :=
  .trans (.trans (.trans (takeAll _ p h) (offerIfDue _ h)) (portEnd _ h)) (completeIfSettled _ h)

theorem carryFails (p : Part) (h : List Owed) (c : Carry) : Traffic p h (p.carryFails c) h := by
  unfold Part.carryFails
  dsimp only
  split
  · exact (haltCause _ h _).andThen (thenSame (.trans (.carryEnds _) (postWindow _ h _ _)) (.updWin _ _ _))
  · exact .carryEnds _

theorem carryReadOkay (p : Part) (h : List Owed) (c : Carry) (data : List Beat) :
    Traffic p h (p.carryReadOkay c data) h := .trans (.carryGoesOn _) (.placeOwn _ (by simp [Part.carryWriteRequest, DownKind.cls]))

theorem carryWriteOkay (p : Part) (h : List Owed) (c : Carry) : Traffic p h (p.carryWriteOkay c) h :=
  .trans (.trans (thenSame (.carryEnds _) (.setBank _ _ _)) (releaseHeld serveReleased _ h _ _ _)) (carryEmptied _ h _)

theorem carryReadEnds (p : Part) (h : List Owed) (id : Nat) (a : MemAnswer) : Traffic p h (p.carryReadEnds id a) h := by
  unfold Part.carryReadEnds
  repeat' split
  all_goals first | exact refl p h | exact carryReadOkay p h _ _ | exact carryFails p h _

theorem carryWriteEnds (p : Part) (h : List Owed) (id : Nat) (a : MemAnswer) :
    Traffic p h (p.carryWriteEnds id a) h := by
  unfold Part.carryWriteEnds
  repeat' split
  all_goals first | exact refl p h | exact carryWriteOkay p h _ | exact carryFails p h _

end Traffic

end Sys2Proof.Machine
end

