-- ==== Sys2Proof/Laws/Commands.lean ====
section
/-! SUPPORT. Every command's effect is a chain of the acts of `Traffic` that begins and ends with no request in hand:
`exec_traffic` and `step_traffic`. -/

namespace Sys2Proof.Machine

namespace Traffic

variable {p : Part}

/-! ## REQUEST_TAKE -/

theorem finish (c : RequestClass) (p : Part) (h : List Owed) : Traffic p h (c.finish p) h := by
  cases c <;> first | exact portEnd p h | exact eventEnd p h | exact refl p h

theorem takeRequest (p : Part) (r : Request) : Traffic p [] (p.takeRequest r) [] := by
  unfold Part.takeRequest
  split
  · next room =>
    split
    · exact .trans (.trans (.take r room) (serve _ [] (p.taken r))) (finish _ _ [])
    · exact .trans (.take r room) (answer _ [] (p.taken r) _)
  · exact refl p []

/-! ## Answers -/

theorem failForwarded (p : Part) (h : List Owed) (m : MasterId) (g : Tag) (line : Addr) :
    Traffic p (.issued m g :: h) (p.failForwarded (.upstream m g line)) h :=
  .trans (.respond (.issued m g) _ []) (postDevice _ h _)

theorem passEnds (p : Part) (h : List Owed) (r : DownReq) (a : MemAnswer) (m : MasterId) (g : Tag) (line : Addr)
    (origin : r.origin = .upstream m g line) : Traffic p (.issued m g :: h) (p.passEnds r a) h := by
  unfold Part.passEnds
  rw [origin]
  cases a with
  | okay data => exact .respond (.issued m g) _ _
  | error => exact failForwarded p h m g line

theorem viewEnds (p : Part) (h : List Owed) (r : DownReq) (a : MemAnswer) (m : MasterId) (g : Tag) (line : Addr)
    (origin : r.origin = .upstream m g line) : Traffic p (.issued m g :: h) (p.viewEnds r a) h := by
  unfold Part.viewEnds
  rw [origin]
  cases a with
  | okay data => exact .respond (.issued m g) _ _
  | error => exact failForwarded p h m g line

theorem redirectedEnds (p : Part) (h : List Owed) (r : DownReq) (a : MemAnswer) (m : MasterId) (g : Tag)
    (line : Addr) (origin : r.origin = .upstream m g line) :
    Traffic p (.issued m g :: h) (p.redirectedEnds r a) h := by
  unfold Part.redirectedEnds
  refine (beginCheck _ h).andThen ?_
  rw [origin]
  cases a with
  | okay data => exact .respond (.issued m g) _ _
  | error => exact failForwarded p h m g line

theorem passEnds_part (p : Part) (h : List Owed) (r : DownReq) (a : MemAnswer) (origin : r.origin = .part) :
    Traffic p h (p.passEnds r a) h := by
  unfold Part.passEnds Part.failForwarded
  rw [origin]
  cases a <;> exact refl p h

theorem viewEnds_part (p : Part) (h : List Owed) (r : DownReq) (a : MemAnswer) (origin : r.origin = .part) :
    Traffic p h (p.viewEnds r a) h := by
  unfold Part.viewEnds Part.failForwarded
  rw [origin]
  cases a <;> exact refl p h

theorem redirectedEnds_part (p : Part) (h : List Owed) (r : DownReq) (a : MemAnswer) (origin : r.origin = .part) :
    Traffic p h (p.redirectedEnds r a) h := by
  unfold Part.redirectedEnds
  refine (beginCheck _ h).andThen ?_
  unfold Part.failForwarded
  rw [origin]
  cases a <;> exact refl p h

/-- What is asked of the owner of a forwarded request's end. -/
def EndsForwarded (own : Part → DownReq → Part) : Prop :=
  (∀ p h r m g line, r.origin = .upstream m g line → Traffic p (.issued m g :: h) (own p r) h)
    ∧ ∀ p h r, r.origin = .part → Traffic p h (own p r) h

theorem entryFor_spec {kinds : DownKind → Bool} {id : Nat} {e : Entry} (found : p.entryFor kinds id = some e) :
    e ∈ p.down.table ∧ e.req.id = id ∧ kinds e.req.kind = true := by
  have holds := List.find?_some found
  simp only [Bool.and_eq_true, decide_eq_true_eq] at holds
  exact ⟨List.mem_of_find?_eq_some found, holds⟩

theorem answeredForward (p : Part) (kinds : DownKind → Bool) (id : Nat) {own : Part → DownReq → Part}
    (cls : ∀ k, kinds k = true → k.cls = .forwarded) (ends : EndsForwarded own) :
    Traffic p [] (p.answered kinds id own) [] := by
  unfold Part.answered
  split
  · exact refl p []
  · next e found =>
    obtain ⟨mem, rfl, kind⟩ := entryFor_spec found
    split
    · next late => exact .trans (.answeredOwn e mem (.inl late)) (portEnd _ [])
    · next live =>
      cases origin : e.req.origin with
      | part => exact .trans (.answeredOwn e mem (.inr (.inr origin))) (ends.2 _ _ _ origin)
      | upstream m g line =>
        exact .trans (.answeredFor e m g line mem (by simpa using live) (cls _ kind) origin)
          (ends.1 _ _ _ m g line origin)

theorem answeredOwned (p : Part) (kinds : DownKind → Bool) (id : Nat) {own : Part → DownReq → Part}
    (cls : ∀ k, kinds k = true → k.cls ≠ .forwarded) (ends : ∀ p h r, Traffic p h (own p r) h) :
    Traffic p [] (p.answered kinds id own) [] := by
  unfold Part.answered
  split
  · exact refl p []
  · next e found =>
    obtain ⟨mem, rfl, kind⟩ := entryFor_spec found
    split
    · next late => exact .trans (.answeredOwn e mem (.inl late)) (portEnd _ [])
    · exact .trans (.answeredOwn e mem (.inr (.inl (cls _ kind)))) (ends _ _ _)

theorem endsPass (a : MemAnswer) : EndsForwarded fun q r => (q.passEnds r a).portEnd :=
  ⟨fun _ h r m g line origin => (portEnd _ h).andThen (passEnds _ h r a m g line origin),
    fun _ h r origin => (portEnd _ h).andThen (passEnds_part _ h r a origin)⟩

theorem endsView (a : MemAnswer) : EndsForwarded fun q r => (q.viewEnds r a).portEnd :=
  ⟨fun _ h r m g line origin => (portEnd _ h).andThen (viewEnds _ h r a m g line origin),
    fun _ h r origin => (portEnd _ h).andThen (viewEnds_part _ h r a origin)⟩

theorem endsRedirected (a : MemAnswer) : EndsForwarded fun q r => (q.redirectedEnds r a).eventEnd :=
  ⟨fun _ h r m g line origin => (eventEnd _ h).andThen (redirectedEnds _ h r a m g line origin),
    fun _ h r origin => (eventEnd _ h).andThen (redirectedEnds_part _ h r a origin)⟩

theorem lateAnswer (p : Part) (id : Nat) :
    Traffic p []
      (match p.down.table.find? (fun e => e.req.id = id && e.expired) with
       | none => p
       | some _ => (p.dropEntry id).portEnd) [] := by
  split
  · exact refl p []
  · next e found =>
    have holds := List.find?_some found
    simp only [Bool.and_eq_true, decide_eq_true_eq] at holds
    obtain ⟨rfl, late⟩ := holds
    exact .trans (.answeredOwn e (List.mem_of_find?_eq_some found) (.inl late)) (portEnd _ [])

/-! ## Time -/

theorem withdraw_ (p : Part) (h : List Owed) (e : HoldEntry) : Traffic p h (p.withdraw e) h := by
  unfold Part.withdraw
  split
  · exact refl p h
  · split
    · exact (releaseHeld serve _ h _ _ _).andThen (.same (.updWin p _ _))
    · exact refl p h

theorem expireHeld (p : Part) (e : HoldEntry) (held : e ∈ p.hold) : Traffic p [] (p.expireHeld e) [] := by
  have ended : Traffic p []
      (((p.dropHeld e.seq).answer e.req (.error .timeout)).postWindow e.window (.holdExpired e.req.master e.reason)) [] :=
    .trans (.trans (.unhold e held) (answer _ [] e.released _)) (postWindow _ [] _ _)
  unfold Part.expireHeld
  dsimp only
  split
  · exact (withdraw_ _ [] e).andThen ended
  all_goals exact ended

theorem holdExpiry (p : Part) : Traffic p [] p.holdExpiry [] := by
  unfold Part.holdExpiry
  split
  · exact refl p []
  · next e found => exact .trans (expireHeld p e (List.mem_of_find?_eq_some found)) (eventEnd _ [])

theorem entryExpiry (p : Part) (id : Nat) : Traffic p [] (p.entryExpiry id) [] := by
  unfold Part.entryExpiry
  split
  · exact refl p []
  · next e found =>
    have holds := List.find?_some found
    simp only [Part.due, Bool.and_eq_true, decide_eq_true_eq, Bool.not_eq_true'] at holds
    obtain ⟨rfl, live, _⟩ := holds
    have mem := List.mem_of_find?_eq_some found
    have forward : ∀ {own : Part → DownReq → Part}, EndsForwarded own → e.req.kind.cls = .forwarded →
        Traffic p [] (own (p.markExpired e.req.id) e.req) [] := by
      intro own ends cls
      cases origin : e.req.origin with
      | part => exact .trans (.expiredOwn e mem live (.inr origin)) (ends.2 _ _ _ origin)
      | upstream m g line =>
        exact .trans (.expiredFor e m g line mem live cls origin) (ends.1 _ _ _ m g line origin)
    have owned : e.req.kind.cls ≠ .forwarded → Traffic p [] (p.markExpired e.req.id) [] :=
      fun own => .expiredOwn e mem live (.inl own)
    unfold Part.requestFails
    cases kind : e.req.kind with
    | passRead | passWrite => exact forward (endsPass .error) (by rw [kind]; rfl)
    | viewRead => exact forward (endsView .error) (by rw [kind]; rfl)
    | redirectedWrite => exact forward (endsRedirected .error) (by rw [kind]; rfl)
    | guardRead => exact .trans (.trans (owned (by rw [kind]; decide)) (guardEnds _ [] _ _)) (eventEnd _ [])
    | drainWrite => exact .trans (.trans (owned (by rw [kind]; decide)) (drainEnds _ [] _ _)) (eventEnd _ [])
    | stampWrite => exact .trans (.trans (owned (by rw [kind]; decide)) (stampEnds _ [] _)) (eventEnd _ [])
    | carryRead => exact .trans (.trans (owned (by rw [kind]; decide)) (carryReadEnds _ [] _ _)) (eventEnd _ [])
    | carryWrite => exact .trans (.trans (owned (by rw [kind]; decide)) (carryWriteEnds _ [] _ _)) (eventEnd _ [])

theorem expireHolds (n : Nat) (p : Part) : Traffic p [] (Part.expireHolds n p) [] := by
  induction n generalizing p with
  | zero => exact refl p []
  | succ n ih =>
    unfold Part.expireHolds
    split
    · exact refl p []
    · exact .trans (holdExpiry p) (ih _)

theorem expireEntries (n : Nat) (p : Part) : Traffic p [] (Part.expireEntries n p) [] := by
  induction n generalizing p with
  | zero => exact refl p []
  | succ n ih =>
    unfold Part.expireEntries
    split
    · exact refl p []
    · exact .trans (entryExpiry p _) (ih _)

theorem closeMoment (p : Part) : Traffic p [] p.closeMoment [] := .trans (expireHolds _ p) (expireEntries _ _)

/-! ## Strobes -/

theorem edgeAt (p : Part) (h : List Owed) (l : StrobeLine) (w : WinIdx) : Traffic p h (p.edgeAt l w) h := by
  unfold Part.edgeAt
  dsimp only
  repeat' split
  all_goals first | exact refl p h | exact .same (.joinQueue p w) | exact postWindow p h w _

theorem edge (p : Part) (h : List Owed) (l : StrobeLine) : Traffic p h (p.edge l) h := by
  unfold Part.edge
  induction allWindows generalizing p with
  | nil => exact refl p h
  | cons w ws ih => exact .trans (.trans (edgeAt p h l w) (takeAll _ _ h)) (ih _)

theorem activeSample (p : Part) (l : StrobeLine) : Traffic p [] (p.activeSample l) [] := by
  unfold Part.activeSample
  split
  · exact refl p []
  · split
    · exact .same (.sample p l _)
    · exact .trans (sameThen (.sample p l _) (edge _ [] l)) (eventEnd _ [])

/-! ## Management commands -/

theorem endFrame (p : Part) : Traffic p [] p.endFrame [] := .same ⟨rfl, rfl, rfl, rfl, rfl, rfl, rfl, rfl, rfl⟩

theorem deselect (p : Part) : Traffic p [] p.deselect [] := by
  unfold Part.deselect
  split
  · exact endFrame p
  · exact .same ⟨rfl, rfl, rfl, rfl, rfl, rfl, rfl, rfl, rfl⟩

/-- What is asked of a command's own rule. -/
def Rules (own : Part → Reply) : Prop := ∀ p, Traffic p [] (own p).part []

theorem takeCommand (p : Part) (code : Byte) (n : Nat) {own : Part → Reply} (good : Rules own) :
    Traffic p [] (p.takeCommand code n own) [] := by
  unfold Part.takeCommand
  have ended := endFrame p
  have opened : ∀ (q : Part) st results chosen, Traffic q [] (q.openFrame code st results chosen) [] :=
    fun q _ _ _ => .same ⟨rfl, rfl, rfl, rfl, rfl, rfl, rfl, rfl, rfl⟩
  dsimp only
  split
  · exact .trans (.trans ended (good _)) (opened _ _ _ _)
  · exact .trans (.trans ended (good _)) (opened _ _ _ _)
  all_goals exact .trans ended (opened _ _ _ _)

theorem rules_notBusy {own : Part → Reply} (good : Rules own) : Rules (Machine.notBusy own) := by
  intro p
  unfold Machine.notBusy
  split
  · exact refl p []
  · exact good p

theorem rules_withWindow (w : Byte) {own : WinIdx → Part → Reply} (good : ∀ i, Rules (own i)) :
    Rules (Machine.withWindow w own) := by
  intro p
  unfold Machine.withWindow
  split
  · exact good _ p
  · exact refl p []

theorem rules_same {own : Part → Reply} (same : ∀ p, SameTraffic p (own p).part) : Rules own := fun p => .same (same p)

theorem configure (block : List Byte) (w : WinIdx) : Rules (Part.configure block w) := by
  intro p
  unfold Part.configure
  split
  · dsimp only [reply]
    exact .same (.updWin p w _)
  · exact refl p []

theorem adjust (a : MasterSet) (b : Byte) (c : BitVec 16) (d e f : Byte) (w : WinIdx) :
    Rules (Part.adjust a b c d e f w) := by
  intro p
  unfold Part.adjust
  split
  · dsimp only [reply]
    exact (offerIfDue _ []).andThen (.same ((SameTraffic.oweOffer _).after (.updWin p w _)))
  · exact refl p []

theorem enable (w : WinIdx) : Rules (Part.enable w) := by
  intro p
  unfold Part.enable
  repeat' split
  all_goals first
    | exact refl p []
    | exact sameThen ((SameTraffic.updWin p w _).trans (.prime _ w)) (portEnd _ [])

theorem haltedOff (p : Part) (h : List Owed) (w : WinIdx) : Traffic p h (p.haltedOff w) h :=
  .same ((SameTraffic.clearMaps p w).trans (.updWin _ w _))

theorem drainWindow (p : Part) (h : List Owed) (w : WinIdx) : Traffic p h (p.drainWindow w) h := by
  unfold Part.drainWindow
  dsimp only
  refine (retireIfDone _ h w).andThen ?_
  have retiring : ∀ f which, Traffic p h ((p.updWin w f).answerWhere which .retry) h :=
    fun f which => sameThen (.updWin p w f) (answerWhere _ h which _)
  split
  · exact retiring _ _
  · split
    · split
      · exact retiring _ _
      · exact (reachClose carryOutClose _ h w 0).andThen (retiring _ _)
    · exact (answerWhere _ h _ _).andThen (thenSame (retiring _ _) (.discardOpen _ w))

theorem discardWindow (p : Part) (h : List Owed) (w : WinIdx) : Traffic p h (p.discardWindow w) h := by
  unfold Part.discardWindow
  dsimp only
  exact (retireIfDone _ h w).andThen
    (thenSame
      ((discardUnseen _ h w).andThen
        (thenSame (sameThen (.updWin p w _) (answerWhere _ h _ _)) (.discardOpen _ w)))
      (.returnDirty _ w))

theorem disable (mode : Byte) (w : WinIdx) : Rules (Part.disable mode w) := by
  intro p
  unfold Part.disable
  split
  · split
    · exact refl p []
    · exact haltedOff p [] w
    · refine (eventEnd _ []).andThen ?_
      split
      · exact drainWindow p [] w
      · exact discardWindow p [] w
    · unfold reply
      dsimp only
      split
      · exact refl p []
      · exact .trans (discardWindow p [] w) (eventEnd _ [])
  · exact refl p []

theorem closeCommand (v : BitVec 32) (w : WinIdx) : Rules (Part.closeCommand v w) := by
  intro p
  unfold Part.closeCommand
  repeat' split
  all_goals first
    | exact refl p []
    | exact .trans (reachClose carryOutClose p [] w v) (eventEnd _ [])

theorem dropOpenCommand (w : WinIdx) : Rules (Part.dropOpenCommand w) := by
  intro p
  unfold Part.dropOpenCommand
  repeat' split
  all_goals first
    | exact refl p []
    | exact .trans (sameThen ((SameTraffic.freeSlotCount p _).trans (.updWin _ w _)) (answerWhere _ [] _ _))
        (offerIfDue _ [])

theorem clearFault (w : WinIdx) : Rules (Part.clearFault w) := by
  intro p
  unfold Part.clearFault
  split
  · exact sameThen ((SameTraffic.updWin p w _).trans (.prime _ w)) (portEnd _ [])
  · exact refl p []

theorem setStampCount (v : BitVec 32) (w : WinIdx) : Rules (Part.setStampCount v w) := by
  intro p
  unfold Part.setStampCount
  split
  · dsimp only [reply]
    exact .same (.updWin p w _)
  · exact refl p []

theorem setFloor (t v : Byte) : Rules (Part.setFloor t v) := by
  intro p
  unfold Part.setFloor
  split
  · unfold Notify.setFloor
    unfold reply
    dsimp only
    split <;> exact .same ⟨rfl, rfl, rfl, rfl, rfl, rfl, rfl, rfl, rfl⟩
  · exact refl p []

theorem takeEvent (t : Byte) : Rules (Part.takeEvent t) := by
  intro p
  unfold Part.takeEvent
  repeat' split
  all_goals exact refl p []

theorem setDeviceEvents (a b : Byte) : Rules (Part.setDeviceEvents a b) := by
  intro p
  unfold Part.setDeviceEvents
  split
  · exact .same ⟨rfl, rfl, rfl, rfl, rfl, rfl, rfl, rfl, rfl⟩
  · exact refl p []

theorem setPolarity (a b : Byte) : Rules (Part.setPolarity a b) := by
  intro p
  unfold Part.setPolarity
  split
  · cases strobeLineOf a <;> exact .same ⟨rfl, rfl, rfl, rfl, rfl, rfl, rfl, rfl, rfl⟩
  · exact refl p []

theorem setTimers (a : Byte) (b c : BitVec 16) : Rules (Part.setTimers a b c) := by
  intro p
  unfold Part.setTimers
  split
  · exact .same ⟨rfl, rfl, rfl, rfl, rfl, rfl, rfl, rfl, rfl⟩
  · exact refl p []

theorem removeCarryReads (p : Part) (h : List Owed) : Traffic p h p.removeCarryReads h := by
  refine .trans (.carryEnds fun c => p.down.carry.all fun r => r.kind ≠ .carryRead || r.id ≠ c.request)
    (.trans (.withdraw (fun _ => true) (fun r => r.kind ≠ .carryRead)) ?_)
  exact .same ⟨rfl, rfl, rfl, rfl, rfl, rfl, by rw [List.filter_true']; rfl, rfl, rfl⟩

theorem abandonCheck (p : Part) (h : List Owed) : Traffic p h p.abandonCheck h := by
  unfold Part.abandonCheck
  split
  · exact refl p h
  · exact stopCheck p h _

end Traffic

/-! ## The hold queue empties at RESTART -/

theorem answerEach_hold (st : RespStatus) (qs : List Nat) (p : Part) :
    (answerEach st qs p).hold = p.hold.filter fun e => decide (e.seq ∉ qs) := by
  induction qs generalizing p with
  | nil => exact (List.filter_eq_self.mpr fun e _ => by simp).symm
  | cons q qs ih =>
    unfold answerEach
    split
    · next none =>
      rw [ih]
      refine List.filter_congr fun e mem => ?_
      have ne := List.find?_eq_none.mp none e mem
      simp only [decide_eq_true_eq] at ne
      simp [ne]
    · rw [ih]
      simp only [Part.answer, Part.respond_hold, Part.dropHeld_hold, List.filter_filter]
      refine List.filter_congr fun e _ => ?_
      by_cases eq : e.seq = q <;> simp [eq]

theorem answerWhere_all_hold (p : Part) (st : RespStatus) : (p.answerWhere (fun _ => true) st).hold = [] := by
  unfold Part.answerWhere
  rw [answerEach_hold, List.filter_true']
  refine List.filter_eq_nil_iff.mpr fun e mem => ?_
  simpa using ⟨e, mem, rfl⟩

namespace Traffic

theorem restartDevice : Rules Part.restartDevice := by
  intro p
  unfold Part.restartDevice
  exact .trans
    (.trans (.trans (.trans (answerWhere p [] _ _) (.restart (answerWhere_all_hold p _))) (abandonCheck _ []))
      (removeCarryReads _ []))
    (eventEnd _ [])

theorem shiftedOut (p : Part) : Traffic p [] p.shiftedOut [] := by
  unfold Part.shiftedOut
  repeat' split
  · exact refl p []
  · exact refl p []
  · next f _ _ i _ => exact thenSame (.unpost i) ⟨rfl, rfl, rfl, rfl, rfl, rfl, rfl, rfl, rfl⟩

theorem releaseReset (v0 v1 : Level) (p : Part) : Traffic p [] (Part.releaseReset v0 v1 p) [] := by
  unfold Part.releaseReset
  split
  · exact refl p []
  · exact .same ⟨rfl, rfl, rfl, rfl, rfl, rfl, rfl, rfl, rfl⟩

theorem whenUp (p : Part) {f : Part → Part} (good : ∀ p, Traffic p [] (f p) []) : Traffic p [] (p.whenUp f) [] := by
  unfold Part.whenUp
  split
  · exact refl p []
  · exact good p

theorem onPart {s t : State} {f : Part → Part} (good : ∀ p, Traffic p [] (f p) [])
    (next : s.onPart f = .next t) : Traffic s.part [] t.part [] := by
  cases next
  exact good _

end Traffic

open Traffic in
/-- Every command is a chain of the acts of `Traffic`. -/
theorem exec_traffic {c : Instr} {s t : State} (next : exec c s = .next t) : Traffic s.part [] t.part [] := by
  cases c with
  | requestTake r => exact onPart (fun p => whenUp p fun p => takeRequest p r) next
  | passThroughAnswer id a =>
    exact onPart (fun p => whenUp p fun p => answeredForward p _ id
      (fun k => by cases k <;> simp [DownKind.cls]) (endsPass a)) next
  | viewReadAnswer id a =>
    exact onPart (fun p => whenUp p fun p => answeredForward p _ id
      (fun k => by cases k <;> simp [DownKind.cls]) (endsView a)) next
  | redirectedWriteAnswer id a =>
    exact onPart (fun p => whenUp p fun p => answeredForward p _ id
      (fun k => by cases k <;> simp [DownKind.cls]) (endsRedirected a)) next
  | guardReadAnswer id a =>
    exact onPart (fun p => whenUp p fun p => answeredOwned p _ id (fun k => by cases k <;> simp [DownKind.cls])
      fun _ h _ => (eventEnd _ h).andThen (guardEnds _ h id a)) next
  | drainWriteAnswer id a =>
    exact onPart (fun p => whenUp p fun p => answeredOwned p _ id (fun k => by cases k <;> simp [DownKind.cls])
      fun _ h r => (eventEnd _ h).andThen (drainEnds _ h r.line a)) next
  | stampWriteAnswer id a =>
    exact onPart (fun p => whenUp p fun p => answeredOwned p _ id (fun k => by cases k <;> simp [DownKind.cls])
      fun _ h _ => (eventEnd _ h).andThen (stampEnds _ h a)) next
  | carryReadAnswer id a =>
    exact onPart (fun p => whenUp p fun p => answeredOwned p _ id (fun k => by cases k <;> simp [DownKind.cls])
      fun _ h _ => (eventEnd _ h).andThen (carryReadEnds _ h id a)) next
  | carryWriteAnswer id a =>
    exact onPart (fun p => whenUp p fun p => answeredOwned p _ id (fun k => by cases k <;> simp [DownKind.cls])
      fun _ h _ => (eventEnd _ h).andThen (carryWriteEnds _ h id a)) next
  | lateAnswer id a => exact onPart (fun p => whenUp p fun p => lateAnswer p id) next
  | unmatchedAnswer id a => exact onPart (fun p => refl p []) next
  | entryExpiry id => exact onPart (fun p => whenUp p fun p => entryExpiry p id) next
  | holdExpiry => exact onPart (fun p => whenUp p holdExpiry) next
  | timebaseAdvance =>
    exact onPart (fun p => whenUp p fun p => (closeMoment p).thenSame (r := p.closeMoment.advance) ⟨rfl, rfl, rfl, rfl, rfl, rfl, rfl, rfl, rfl⟩) next
  | strobeEdge l => exact onPart (fun p => whenUp p fun p => activeSample p l) next
  | strobeLevelChange l => exact onPart (fun p => whenUp p fun p => .same (.sample p l _)) next
  | engineTake =>
    refine onPart (fun p => whenUp p fun p => ?_) next
    split
    · exact .trans (takeHead p []) (eventEnd _ [])
    · exact refl p []
  | carryBegin => exact onPart (fun p => whenUp p fun p => .trans (carryEngine p []) (grantAll _ [])) next
  | downstreamGrant => exact onPart (fun p => whenUp p fun p => grantAll p []) next
  | getStatus => exact onPart (fun p => whenUp p fun p => takeCommand p _ _ fun p => refl p []) next
  | readWindow w =>
    exact onPart (fun p => whenUp p fun p => takeCommand p _ _ (rules_withWindow w fun i p => refl p [])) next
  | windowConfig w b =>
    exact onPart (fun p => whenUp p fun p => takeCommand p _ _ (rules_notBusy (rules_withWindow w (configure b)))) next
  | windowAdjust w a b c d e f =>
    exact onPart (fun p => whenUp p fun p => takeCommand p _ _ (rules_notBusy (rules_withWindow w (adjust a b c d e f)))) next
  | enable w => exact onPart (fun p => whenUp p fun p => takeCommand p _ _ (rules_notBusy (rules_withWindow w enable))) next
  | disableDrain w m =>
    exact onPart (fun p => whenUp p fun p => takeCommand p _ _ (rules_notBusy (rules_withWindow w (disable m)))) next
  | disableDiscard w =>
    exact onPart (fun p => whenUp p fun p => takeCommand p _ _ (rules_notBusy (rules_withWindow w (disable 1)))) next
  | close w v => exact onPart (fun p => whenUp p fun p => takeCommand p _ _ (rules_notBusy (rules_withWindow w (closeCommand v)))) next
  | dropOpen w =>
    exact onPart (fun p => whenUp p fun p => takeCommand p _ _ (rules_notBusy (rules_withWindow w dropOpenCommand))) next
  | clearFault w => exact onPart (fun p => whenUp p fun p => takeCommand p _ _ (rules_notBusy (rules_withWindow w clearFault))) next
  | setStamp w v =>
    exact onPart (fun p => whenUp p fun p => takeCommand p _ _ (rules_notBusy (rules_withWindow w (setStampCount v)))) next
  | setFloor t v => exact onPart (fun p => whenUp p fun p => takeCommand p _ _ (rules_notBusy (setFloor t v))) next
  | takeEvent t => exact onPart (fun p => whenUp p fun p => takeCommand p _ _ (rules_notBusy (takeEvent t))) next
  | eventRecordShiftedOut => exact onPart (fun p => whenUp p shiftedOut) next
  | setDeviceEvents a b =>
    exact onPart (fun p => whenUp p fun p => takeCommand p _ _ (rules_notBusy (setDeviceEvents a b))) next
  | setStrobe a b => exact onPart (fun p => whenUp p fun p => takeCommand p _ _ (rules_notBusy (setPolarity a b))) next
  | setTimers a b c => exact onPart (fun p => whenUp p fun p => takeCommand p _ _ (rules_notBusy (setTimers a b c))) next
  | restart => exact onPart (fun p => whenUp p fun p => takeCommand p _ _ (rules_notBusy restartDevice)) next
  | unknownCommand code => exact onPart (fun p => whenUp p fun p => takeCommand p _ _ fun p => refl p []) next
  | frameAborted =>
    exact onPart deselect next
  | warmResetCompletion => exact onPart (fun p => whenUp p fun p => completeIfSettled p []) next
  | coldReset => exact onPart (fun p => .coldReset) next
  | frameEnd =>
    exact onPart deselect next
  | resetnRelease v0 v1 => exact onPart (fun p => releaseReset v0 v1 p) next

/-- Every step is a chain of the acts of `Traffic`. -/
theorem step_traffic {s t : State} (next : step s = .next t) : Traffic s.part [] t.part [] := by
  unfold step at next
  split at next
  · cases next
    exact .refl _ []
  · next c rest _ => exact exec_traffic (s := { s with pending := rest }) next

end Sys2Proof.Machine
end

