-- ==== Sys2Proof/Laws/Link.lean ====
section
/-! SUPPORT. The link's acts: MSEL's moves, what a bit of MDI can do, and what MDO shows. -/

namespace Sys2Proof.Machine

variable (p : Part)

/-- What the collecting of a bit asks of the part (R159). -/
theorem Part.collecting_iff : p.collecting = true ↔
    p.resetn = .high ∧ p.msel = .lowInFrame ∧ p.link = none ∧ frameCommand (bytesOfBits p.incoming) = none := by
  simp only [Part.collecting, Bool.and_eq_true, decide_eq_true_eq, Option.isNone_iff_eq_none, and_assoc]

/-- With no frame open no bit is collected, and MDO's last bit is not out. -/
theorem Part.collecting_noFrame {p : Part} (none : p.msel ≠ .lowInFrame) : p.collecting = false :=
  Bool.eq_false_iff.mpr fun yes => none ((Part.collecting_iff p).mp yes).2.1

theorem Part.recordOut_iff (p : Part) : p.recordOut = true ↔ p.resetn = .high ∧ p.msel = .lowInFrame
    ∧ ∃ f, p.link = some f ∧ f.chosen ≠ none ∧ f.shifted = f.bits := by
  simp only [Part.recordOut, Bool.and_eq_true, decide_eq_true_eq, Option.any_eq_true, Option.isSome_iff_ne_none, and_assoc]

/-- A bit that is neither collected nor the end of a chosen record changes nothing. -/
theorem State.clockBit_idle {s : State} (idle : s.part.collecting = false) (rest : s.part.recordOut = false) (b : Bool) :
    s.clockBit b = s := by
  simp only [State.clockBit, idle, rest, Bool.false_eq_true, if_false]

/-- With no frame open the clock changes nothing. -/
theorem State.clockBit_noFrame {s : State} (none : s.part.msel ≠ .lowInFrame) (b : Bool) : s.clockBit b = s :=
  State.clockBit_idle (Part.collecting_noFrame none)
    (Bool.eq_false_iff.mpr fun yes => none ((Part.recordOut_iff s.part).mp yes).2.1) b

theorem State.clockByte_noFrame {s : State} (none : s.part.msel ≠ .lowInFrame) (v : Byte) : s.clockByte v = s := by
  unfold State.clockByte
  induction List.range 8 with
  | nil => rfl
  | cons i l ih => rw [List.foldl_cons, State.clockBit_noFrame none, ih]

theorem State.clockBytes_noFrame {s : State} (none : s.part.msel ≠ .lowInFrame) (bytes : List Byte) :
    s.clockBytes bytes = s := by
  induction bytes with
  | nil => rfl
  | cons v l ih => simpa only [State.clockBytes, List.foldl_cons, State.clockByte_noFrame none] using ih

/-- MSEL's fall opens a frame of a part that is not held in reset (R159, R169). -/
theorem Part.select_high {p : Part} (high : p.msel = .high) :
    p.select = { p with msel := if p.resetn = .high then .lowInFrame else .lowNoFrame } := by
  unfold Part.select
  rw [high]
  cases p.resetn <;> rfl

/-- A pin that is low cannot go low. -/
theorem Part.select_low {p : Part} (low : p.msel ≠ .high) : p.select = p := by
  unfold Part.select
  cases h : p.msel <;> simp_all

/-- A cold reset leaves no frame open (R159). -/
theorem Select.cut_ne_frame (m : Select) : m.cut ≠ .lowInFrame := by cases m <;> nofun

theorem Select.cut_eq (m : Select) : m.cut = if m = .high then .high else .lowNoFrame := by cases m <;> rfl

/-! ## MDO -/

/-- In an open frame MDO shows the bit that the last falling edge gave it (R160). -/
theorem Part.mdo_shifted {p : Part} {f : Frame} {i : Nat} (up : p.resetn = .high) (frame : p.msel = .lowInFrame)
    (taken : p.link = some f) (shifted : f.shifted = i + 1) : p.mdo = if f.answerBit i then .high else .low := by
  simp only [Part.mdo, up, frame, taken, shifted]

theorem Part.shiftBit_frame {p : Part} {f : Frame} (up : p.resetn = .high) (frame : p.msel = .lowInFrame)
    (taken : p.link = some f) :
    p.shiftBit = { p with link := some { f with shifted := min (f.shifted + 1) (f.bits + 1) } } := by
  simp only [Part.shiftBit, up, frame, taken, Option.map_some]

/-- Falling edges move the count of bits alone, up to one more than the answer has (R160). -/
theorem State.clockFalls_frame (n : Nat) {s : State} {f : Frame} (up : s.part.resetn = .high)
    (frame : s.part.msel = .lowInFrame) (taken : s.part.link = some f) (within : f.shifted ≤ f.bits + 1) :
    State.clockFalls n s =
      { s with part := { s.part with link := some { f with shifted := min (f.shifted + n) (f.bits + 1) } } } := by
  induction n generalizing s f with
  | zero => simp only [State.clockFalls, Nat.add_zero, Nat.min_eq_left within, ← taken]
  | succ n ih =>
    have fall : s.clockFall = { s with part := { s.part with
        link := some { f with shifted := min (f.shifted + 1) (f.bits + 1) } } } := by
      rw [State.clockFall, Part.shiftBit_frame up frame taken]
    rw [State.clockFalls, ih (s := s.clockFall) (f := { f with shifted := min (f.shifted + 1) (f.bits + 1) })
      (by rw [fall]; exact up) (by rw [fall]; exact frame) (by rw [fall]) (Nat.min_le_right ..), fall]
    have sum : min (min (f.shifted + 1) (f.bits + 1) + n) (f.bits + 1) = min (f.shifted + (n + 1)) (f.bits + 1) := by omega
    simp only [Frame.bits] at sum ⊢
    rw [sum]

end Sys2Proof.Machine
end

