-- ==== Sys2Proof/Laws/Records.lean ====
section
/-! SUPPORT. Reading a record back after it is changed: window records, slots' bytes, the hold queue, the event queue. -/

namespace Sys2Proof.Machine

/-! ## Window records -/

theorem win_setWin_same (p : Part) (w : WinIdx) (win : Window) : (p.setWin w win).win w = win := by
  simp [Part.win, Part.setWin]

theorem win_setWin_other (p : Part) {v w : WinIdx} (win : Window) (h : v ≠ w) : (p.setWin w win).win v = p.win v := by
  unfold Part.win Part.setWin
  exact Vector.getElem_set_ne (hi := w.isLt) (hj := v.isLt) (h := fun he => h (Fin.ext he.symm))

theorem win_updWin_same (p : Part) (w : WinIdx) (f : Window → Window) : (p.updWin w f).win w = f (p.win w) :=
  win_setWin_same p w _

theorem win_updWin_other (p : Part) {v w : WinIdx} (f : Window → Window) (h : v ≠ w) : (p.updWin w f).win v = p.win v :=
  win_setWin_other p _ h

theorem setWin_setWin (p : Part) (w : WinIdx) (a b : Window) : (p.setWin w a).setWin w b = p.setWin w b := by
  simp [Part.setWin]

/-! ## The bytes of a line -/

theorem byteAt_lineBytesOf (f : Nat → Option Byte) (i : Nat) :
    byteAt (lineBytesOf f) i = if i < 64 then f i else none := by
  unfold byteAt lineBytesOf
  split
  · rename_i h
    simp [h]
  · rename_i h
    simp [Nat.le_of_not_lt h]

/-- Each byte of an overlay is the newer one where it holds a value (R25, R51). -/
theorem byteAt_overlay (newer older : LineBytes) (i : Nat) :
    byteAt (overlay newer older) i = if i < 64 then (byteAt newer i).or (byteAt older i) else none :=
  byteAt_lineBytesOf _ i

theorem fullLine_iff (l : LineBytes) : fullLine l = true ↔ ∀ i < 64, byteAt l i ≠ none := by
  simp [fullLine, Option.isSome_iff_ne_none]

theorem noBytes_iff (l : LineBytes) : noBytes l = true ↔ ∀ i < 64, byteAt l i = none := by
  simp [noBytes]

/-! ## The hold queue -/

/-- A request held at its take goes to the tail of the hold queue (R124). -/
theorem insertHeld_last (e : HoldEntry) (l : List HoldEntry) (h : ∀ x ∈ l, x.seq < e.seq) :
    insertHeld e l = l ++ [e] := by
  induction l with
  | nil => rfl
  | cons x xs ih =>
    have hx := h x (List.mem_cons_self ..)
    rw [insertHeld, if_neg (Nat.not_lt.mpr (Nat.le_of_lt hx)), ih fun y hy => h y (List.mem_cons_of_mem _ hy)]
    rfl

theorem insertHeld_length (e : HoldEntry) (l : List HoldEntry) : (insertHeld e l).length = l.length + 1 := by
  induction l with
  | nil => rfl
  | cons x xs ih =>
    unfold insertHeld
    split
    · rfl
    · simp [ih]

/-- In a hold queue whose places are apart, the entry at a place is found by it. -/
theorem find_seq {l : List HoldEntry} (apart : (l.map HoldEntry.seq).Nodup) {e : HoldEntry} (mem : e ∈ l) :
    l.find? (fun x => x.seq = e.seq) = some e := by
  induction l with
  | nil => cases mem
  | cons x xs ih =>
    rw [List.map_cons, List.nodup_cons] at apart
    rcases List.mem_cons.mp mem with rfl | tail
    · simp
    · have ne : x.seq ≠ e.seq := fun eq => apart.1 (eq ▸ List.mem_map_of_mem tail)
      rw [List.find?_cons_of_neg (by simpa using ne), ih apart.2 tail]

/-- Entries of a hold queue answered one after another: they leave the queue with their demand entries, and each is
answered, in the order given. -/
theorem answerEach_eq (st : RespStatus) (es : List HoldEntry) (p : Part) (apart : (p.hold.map HoldEntry.seq).Nodup)
    (held : ∀ e ∈ es, e ∈ p.hold) (once : (es.map HoldEntry.seq).Nodup) :
    answerEach st (es.map HoldEntry.seq) p =
      { p with
        hold := p.hold.filter fun x => x.seq ∉ es.map HoldEntry.seq
        carry := { p.carry with demand := p.carry.demand.filter fun d => d.seq ∉ es.map HoldEntry.seq }
        openCount := p.openCount - es.length
        responses := p.responses ++ es.map fun e => ⟨e.req.master, e.req.tag, st, []⟩ } := by
  induction es generalizing p with
  | nil =>
    have all (α : Type) (l : List α) : l.filter (fun _ => true) = l := List.filter_eq_self.mpr fun _ _ => rfl
    simp [answerEach, all]
  | cons e es ih =>
    rw [List.map_cons, List.nodup_cons] at once
    rw [List.map_cons, answerEach, find_seq apart (held e (List.mem_cons_self ..))]
    have keep : ∀ x ∈ es, x ∈ (p.dropHeld e.seq).hold := fun x mem =>
      List.mem_filter.mpr ⟨held x (List.mem_cons_of_mem _ mem),
        by
          have ne : x.seq ≠ e.seq := fun eq => once.1 (eq ▸ List.mem_map_of_mem mem)
          simpa using ne⟩
    have apart' : ((p.dropHeld e.seq).hold.map HoldEntry.seq).Nodup :=
      apart.sublist ((List.filter_sublist ..).map _)
    rw [ih ((p.dropHeld e.seq).answer e.req st) apart' keep once.2]
    simp only [Part.answer, Part.respond, Part.dropHeld, List.filter_filter, Nat.sub_sub, Nat.add_comm, List.length_cons,
      List.map_cons, List.append_assoc, List.singleton_append, List.mem_cons, not_or, Bool.decide_and, Bool.and_comm]

/-- Answering in place every entry for which `which` holds, in the words the statements use (R149). -/
theorem answerWhere_eq_answering (p : Part) (which : HoldEntry → Bool) (st : RespStatus)
    (order : p.hold.Pairwise fun a b => a.seq < b.seq) : p.answerWhere which st = p.answering which st := by
  have apart : (p.hold.map HoldEntry.seq).Nodup :=
    List.pairwise_map.mpr (order.imp fun lt => Nat.ne_of_lt lt)
  unfold Part.answerWhere Part.answering
  rw [answerEach_eq st _ p apart (fun e mem => (List.mem_filter.mp mem).1) (apart.sublist ((List.filter_sublist ..).map _)),
    List.countP_eq_length_filter]
  have same : ∀ e ∈ p.hold, (e.seq ∈ (p.hold.filter which).map HoldEntry.seq) ↔ which e = true := fun e mem =>
    ⟨fun h => by
      obtain ⟨x, hx, eq⟩ := List.mem_map.mp h
      obtain ⟨hx, yes⟩ := List.mem_filter.mp hx
      have := (find_seq apart hx).symm.trans (eq ▸ find_seq apart mem)
      exact (Option.some.inj this) ▸ yes,
     fun yes => List.mem_map_of_mem (List.mem_filter.mpr ⟨mem, yes⟩)⟩
  have hold : (p.hold.filter fun x => decide (x.seq ∉ (p.hold.filter which).map HoldEntry.seq))
      = p.hold.filter fun e => !which e := by
    refine List.filter_congr fun e mem => ?_
    simp only [same e mem]
    cases which e <;> rfl
  have demand : (p.carry.demand.filter fun d => decide (d.seq ∉ (p.hold.filter which).map HoldEntry.seq))
      = p.carry.demand.filter fun d => !p.hold.any fun e => which e && e.seq = d.seq := by
    refine List.filter_congr fun d _ => ?_
    rw [Bool.eq_iff_iff]
    simp only [decide_eq_true_eq, Bool.not_eq_true', List.any_eq_false, List.mem_map, List.mem_filter]
    simp
  rw [hold, demand]

/-! ## Commands -/

/-- While RESETn is high a command acts. -/
theorem whenUp_high {p : Part} (h : p.resetn = .high) (f : Part → Part) : p.whenUp f = f p := by
  simp [Part.whenUp, h]

theorem notBusy_running {p : Part} (h : p.device = .running) (own : Part → Reply) : notBusy own p = own p := by
  simp [notBusy, h]

theorem withWindow_of {b : Byte} {w : WinIdx} (h : b.toNat = w.val) (own : WinIdx → Part → Reply) (p : Part) :
    withWindow b own p = own w p := by
  have hb : b.toNat < 16 := h ▸ w.isLt
  rw [withWindow, dif_pos hb, show (⟨b.toNat, hb⟩ : WinIdx) = w from Fin.ext h]

end Sys2Proof.Machine
end

