-- ==== Sys2Proof/Laws/Publish.lean ====
section
/-! SUPPORT. The publish engine in the words the statements use: the entry into DRAINING, the drain writes it
places, a check that stops, and the engine's take of the one window in the queue. -/

namespace Sys2Proof.Machine

theorem drainWritesFrom_length (w : WinIdx) (gen : GenNum) (id : Nat) (slots : List Slot) :
    (drainWritesFrom w gen id slots).length = slots.length := by
  induction slots generalizing id with
  | nil => rfl
  | cons x rest ih => rw [drainWritesFrom, List.length_cons, List.length_cons, ih]

/-- Drain writes placed one after another are those of the slots, at the tail of the PUBLISH list (R83). -/
theorem place_drainRequests (k : Work) (slots : List Slot) (p : Part) :
    slots.foldl (fun q s => q.place (drainRequest k s)) p = { p with
      nextId := p.nextId + slots.length
      down := { p.down with publish := p.down.publish ++ drainWritesFrom k.window k.gen p.nextId slots } } := by
  induction slots generalizing p with
  | nil => simp only [List.foldl_nil, drainWritesFrom, List.append_nil, List.length_nil, Nat.add_zero]
  | cons x rest ih =>
    rw [List.foldl_cons, ih]
    simp only [Part.place, drainRequest, DownKind.cls, ReadPart.plain, drainWritesFrom, List.append_assoc,
      List.singleton_append, List.length_cons, Nat.add_assoc, Nat.add_comm 1]

/-- A generation with slots enters DRAINING (R83). -/
theorem enterDraining_eq {p : Part} {k k' : Work} {g : Gen} (engine : p.engine = some k')
    (pub : (p.win k.window).pubGen = some g) (slots : g.slots ≠ []) : p.enterDraining k = p.draining k g := by
  unfold Part.enterDraining
  simp only [pub, slotsOf, slots, if_false, place_drainRequests]
  simp only [Part.setPubState, Part.updWin, Part.updWork, Part.draining, Part.setWin, pub, engine, Option.map_some]

/-- A check that stops leaves the engine idle, without its unissued guard read (R93). -/
theorem stopCheck_eq (p : Part) (w : WinIdx) : p.stopCheck w = p.unchecked w := by
  have all : ∀ l : List DownReq, (l.filter fun _ => true) = l := fun l => List.filter_eq_self.mpr fun _ _ => rfl
  unfold Part.stopCheck Part.unchecked
  cases h : p.engine with
  | none =>
    simp only [Option.filter_none, Option.any_none, Bool.not_false, all]
    rw [← h]
  | some k =>
    by_cases hk : k.window = w ∧ k.phase = .checking
    · simp only [hk, and_self, if_true, Option.filter_some, decide_true, Bool.and_self, Bool.not_true, Bool.false_eq_true,
        if_false, Option.any_some, Bool.true_and, decide_not, eq_comm]
    · have hf : (decide (k.window = w) && decide (k.phase = .checking)) = false := by simpa using hk
      simp only [hk, if_false, Option.filter_some, hf, Bool.not_false, if_true, Option.any_some, Bool.false_and, all]
      rw [← h]

/-- The wait of a FLIP check (R113). -/
theorem settled_iff (p : Part) (w : WinIdx) : p.settled w = true ↔ ¬p.down.redirectLeft w := by
  simp only [Part.settled, Down.redirectLeft, Bool.and_eq_true, List.all_eq_true, Bool.or_eq_true, decide_eq_true_eq,
    not_or, not_exists, not_and, ne_eq]
  constructor
  · rintro ⟨f, t⟩
    refine ⟨fun x hx hk hw => (f x hx).elim (· hk) (· hw), fun x hx he hk hw => ?_⟩
    rcases t x hx with (h | h) | h
    · exact Bool.false_ne_true (he ▸ h)
    · exact h hk
    · exact h hw
  · rintro ⟨f, t⟩
    refine ⟨fun x hx => Decidable.or_iff_not_imp_left.mpr fun h => f x hx (Decidable.not_not.mp h), fun x hx => ?_⟩
    cases he : x.expired with
    | true => exact .inl (.inl rfl)
    | false =>
      by_cases hk : x.req.kind = .redirectedWrite
      · exact .inr (t x hx he hk)
      · exact .inl (.inr hk)

/-- The idle engine takes the one window in the queue, and the check may begin (R77). -/
theorem takeHead_eq {p : Part} {w : WinIdx} {g : Gen} (engine : p.engine = none) (device : p.device = .running)
    (queue : p.queue = [w]) (pub : (p.win w).pubGen = some g) : p.takeHead = (p.takenHead w g none).beginCheck := by
  have h : ∀ k, (({ p with queue := [], engine := some k } : Part).setPubState w .checking)
      = ({ p with queue := [], engine := some k } : Part).setWin w
          { p.win w with pubGen := some { g with state := .checking } } := fun k => by
    unfold Part.setPubState Part.updWin
    show Part.setWin _ w { p.win w with pubGen := (p.win w).pubGen.map _ } = _
    rw [pub]
    rfl
  unfold Part.takeHead
  simp only [engine, device, queue, pub]
  rw [← device, h]
  rfl

/-- The idle engine takes the one window in the queue, whose check begins with its guard read (R77, R78). -/
theorem takeHead_of_guard {p : Part} {w : WinIdx} {g : Gen} (engine : p.engine = none) (device : p.device = .running)
    (queue : p.queue = [w]) (pub : (p.win w).pubGen = some g) (guard : (p.win w).cfg.guardOp ≠ .none)
    (begins : (p.win w).cfg.kind = .staged ∨ ¬p.down.redirectLeft w) :
    p.takeHead = (p.takenHead w g (some p.nextId)).withPublish (p.guardReadOf w g.number) := by
  rw [takeHead_eq engine device queue pub]
  have cfg : ((p.takenHead w g none).win w).cfg = (p.win w).cfg := by rw [Part.takenHead, win_setWin_same]
  have begins' : ((p.takenHead w g none).win w).cfg.kind = .staged ∨ (p.takenHead w g none).settled w = true :=
    cfg ▸ begins.imp id (settled_iff p w).mpr
  unfold Part.beginCheck
  rw [show (p.takenHead w g none).engine = some
    { window := w, gen := g.number, phase := .checking, issued := 0, okay := 0, failed := 0, drainLength := 0
      firstFailed := none, begun := false, guardRead := none } from rfl]
  dsimp only
  rw [if_pos ⟨rfl, rfl, begins'⟩, cfg, if_neg guard]
  rfl

/-- The idle engine takes the one window in the queue, a FLIP one whose check waits (R77, R113). -/
theorem takeHead_of_left {p : Part} {w : WinIdx} {g : Gen} (engine : p.engine = none) (device : p.device = .running)
    (queue : p.queue = [w]) (pub : (p.win w).pubGen = some g) (kind : (p.win w).cfg.kind = .flip)
    (left : p.down.redirectLeft w) : p.takeHead = p.takenHead w g none := by
  rw [takeHead_eq engine device queue pub]
  have cfg : ((p.takenHead w g none).win w).cfg = (p.win w).cfg := by rw [Part.takenHead, win_setWin_same]
  have waits : ¬(p.takenHead w g none).settled w = true := fun h => (settled_iff p w).mp h left
  unfold Part.beginCheck
  rw [show (p.takenHead w g none).engine = some
    { window := w, gen := g.number, phase := .checking, issued := 0, okay := 0, failed := 0, drainLength := 0
      firstFailed := none, begun := false, guardRead := none } from rfl]
  simp only [cfg, kind, waits, reduceCtorEq, or_self, and_false, if_false]

end Sys2Proof.Machine
end

