-- ==== Sys2Proof/Tests/Slice0.lean ====
section
/-! SUPPORT. The model's own tests: the well-formedness checks, the words of the tables, one step of each command on a small
state, and for every statement a state and operands that meet its hypotheses. -/

namespace Sys2Proof.Tests

open Sys2Proof.Machine

set_option Elab.async false

/-! ## Small states -/

/-- A state with no command waiting. -/
def st (p : Part) : State := ⟨[], p⟩

/-- The part after a command. -/
def after (c : Instr) (p : Part) : Part :=
  match exec c (st p) with
  | .next t => t.part
  | .fault _ => p
  | .refused _ => p

/-- A STAGED window's configuration: four lines from 1000H, master 1 the producer, the commit line at 2000H. -/
def cfgS : WinConfig :=
  { WinConfig.reset with viewBase := 0x1000, lines := 4, producers := 2, commitAddr := 0x2000, commitPresent := true, quota := 2 }

/-- A FLIP window's configuration: four lines from 10000H, images at 20000H and 30000H. -/
def cfgF : WinConfig :=
  { cfgS with kind := .flip, viewBase := 0x10000, imageA := 0x20000, imageB := 0x30000, onReject := .reopen }

/-- A window of a configuration in a state, with an OPEN and a publishing generation. -/
def winOf (c : WinConfig) (state : WinState) (o g : Option Gen) : Window :=
  { Window.reset with cfg := c, state := state, openGen := o, pubGen := g }

/-- A part whose window W0 is the one given. -/
def partOf (w : Window) : Part := { Part.reset with windows := Part.reset.windows.set 0 w }

/-- A fresh OPEN generation that expects one arrival. -/
def gen0 : Gen := Gen.fresh 0 1

/-- Generation 0 in a state with a slot list. -/
def genIn (state : GenState) (slots : List Slot) : Gen := { gen0 with state := state, slots := slots, operand := some 5 }

/-- A slot for the line at 1000H: with all its bytes, or with its first alone. -/
def fullSlot : Slot := ⟨0x1000, List.replicate 64 (some 7)⟩
def partSlot : Slot := ⟨0x1000, [some 9]⟩

/-- A LIVE STAGED window with an OPEN generation and a publishing one. -/
def liveS (o : Gen) (g : Option Gen) : Part := partOf (winOf cfgS .live (some o) g)

/-- A LIVE FLIP window with an OPEN generation and a publishing one, and the maps of its bank. -/
def liveF (g : Option Gen) (b : Bank) : Part :=
  { partOf (winOf cfgF .live (some gen0) g) with banks := Part.reset.banks.set 0 b }

/-- The engine at work on generation 0 of W0. -/
def work (phase : Phase) (issued okay len : Nat) (guard : Option Nat) : Work :=
  { window := 0, gen := 0, phase := phase, issued := issued, okay := okay, failed := 0, drainLength := len, firstFailed := none
    begun := true, guardRead := guard }

/-- The part with the engine busy. -/
def busy (p : Part) (k : Work) : Part := { p with engine := some k }

/-- The part with one outstanding request, identity 3, of a kind. -/
def asked (p : Part) (kind : DownKind) (origin : Origin) : Part :=
  { p with
    nextId := 4
    openCount := if origin = .part then 0 else 1
    down := { Down.reset with
      table := [⟨{ id := 3, kind := kind, line := 0x1000, first := 0, beats := 1, bytes := [], origin := origin
                   window := some 0, gen := some 0, carryLine := none, read := ReadPart.plain, flipMark := 0 }, 250, false⟩] } }

/-- The origin of master 5's requests. -/
def up : Origin := .upstream 5 1 0x1000

/-- A write of whole beats, and a read, by a master. -/
def wr (m : MasterId) (a : Addr) (n : Nat) : Request := ⟨m, 0, .write, a, n, List.replicate n ⟨0x0102030405060708, 0xFF⟩⟩
def rd (m : MasterId) (a : Addr) (n : Nat) : Request := ⟨m, 0, .read, a, n, []⟩

/-- A write of one beat with no byte enabled. -/
def wr0 (m : MasterId) (a : Addr) : Request := ⟨m, 0, .write, a, 1, [⟨0, 0⟩]⟩

/-- A hold entry of master 1 for W0, due at a count. -/
def held (why : Reason) (gen : Option GenNum) (seq : Nat) (due : BitVec 32) : HoldEntry :=
  ⟨wr 1 0x1000 1, why, 0, .view 0, 0, due, gen, seq⟩

/-- The part with hold entries. -/
def holding (p : Part) (hs : List HoldEntry) : Part := { p with hold := hs, openCount := hs.length, nextSeq := 20 }

/-- Sixteen entries held for SPACE. -/
def sixteen : List HoldEntry := (List.range 16).map fun i => held .space none i 1000

/-- The account of a part, in clauses that can be decided. -/
abbrev Account (p : Part) : Prop :=
  p.openCount = p.hold.length + p.down.forwarded.length + p.down.liveForwarded
    ∧ (∀ r ∈ p.down.forwarded, r.kind.cls = .forwarded) ∧ (∀ r ∈ p.down.publish, r.kind.cls = .publish)
    ∧ (∀ r ∈ p.down.carry, r.kind.cls = .carry)
    ∧ (∀ r ∈ p.down.requests, r.kind.cls = .forwarded → r.origin ≠ .part)
    ∧ (p.down.requests.map DownReq.id).Nodup ∧ (∀ r ∈ p.down.requests, r.id < p.nextId)
    ∧ p.hold.Pairwise (fun a b => a.seq < b.seq) ∧ (∀ e ∈ p.hold, e.seq < p.nextSeq)
    ∧ (p.device = .restarting → p.hold = [])

theorem accounted_of {p : Part} (h : Account p) : p.Accounted :=
  have ⟨count, forwarded, publish, carry, masters, ids, nextId, order, nextSeq, restarting⟩ := h
  { count, forwarded, publish, carry, masters, ids, nextId, order, nextSeq, restarting }

/-- Parts whose requests are accounted for, and whatever else is to be met. -/
theorem met {ps : List Part} {clauses : Prop} (h : (∀ p ∈ ps, Account p) ∧ clauses) : (∀ p ∈ ps, p.Accounted) ∧ clauses :=
  ⟨fun p mem => accounted_of (h.1 p mem), h.2⟩

/-- A write of line `l` that can be given a slot, in clauses that can be decided. -/
abbrev AdmitsAt (p : Part) (e : HoldEntry) (g : Gen) (l : Nat) : Prop :=
  classify p.windows e.req = .stagedProducerWrite e.window l ∧ (p.win e.window).state = .live
    ∧ (p.win e.window).openGen = some g ∧ MasterSet.has g.arrived e.req.master = false
    ∧ byteAt (carriedBytes e.req) (8 * beatOf e.req.addr) ≠ none ∧ beatOf e.req.addr < 8
    ∧ (∀ x ∈ g.slots, x.line ≠ lineOf e.req.addr)
    ∧ (p.win e.window).holding < (p.win e.window).cfg.quota ∧ 0 < p.freeSlots

theorem admits_of {p : Part} {e : HoldEntry} {g : Gen} {l : Nat} (h : AdmitsAt p e g l) : p.Admits e g :=
  have ⟨write, live, gen, unfenced, carried, first, new, room⟩ := h
  { write := ⟨l, write⟩, live, gen, unfenced, carries := ⟨_, by omega, carried⟩, new, room }

theorem offers_of {p : Part} {e : HoldEntry} {g : Gen} {l : Nat}
    (h : p.hold.find? (fun x => x.reason = .space && (p.win x.window).state = .live
        && decide ((p.win x.window).holding < (p.win x.window).cfg.quota)) = some e
      ∧ (p.freeSlots = 1 ∨ ∀ x ∈ p.hold, x.reason = .space → x.seq = e.seq) ∧ AdmitsAt p e g l) : p.Offers e g :=
  ⟨h.1, h.2.1, admits_of h.2.2⟩

/-- The part while the device is RESTARTING, with W1 still in the publish queue. -/
def restarting (p : Part) : Part := { p with device := .restarting, queue := [1] }

/-- The part at a timebase count. -/
def at' (n : BitVec 32) (p : Part) : Part := { p with timers := { p.timers with count := n } }

/-- A hold entry of a write of one beat, or an arrival, of master 1 for W0. -/
def entry (why : Reason) (a : Addr) (line : HoldLine) (seq : Nat) : HoldEntry := ⟨wr 1 a 1, why, 0, line, 0, 1000, none, seq⟩

/-! ## Well-formedness: each check refuses an ill-formed term -/

theorem test_wf_good : (Instr.requestTake (wr 1 0x1000 8)).wf = true := by decide
theorem test_wf_no_beats : (Instr.requestTake ⟨1, 0, .read, 0, 0, []⟩).wf = false := by decide
theorem test_wf_nine_beats : (Instr.requestTake ⟨1, 0, .read, 0, 9, []⟩).wf = false := by decide
theorem test_wf_read_with_data : (Instr.requestTake ⟨1, 0, .read, 0, 1, [⟨0, 0⟩]⟩).wf = false := by decide
theorem test_wf_write_short : (Instr.requestTake ⟨1, 0, .write, 0, 2, [⟨0, 0⟩]⟩).wf = false := by decide
theorem test_wf_answer_nine : (Instr.viewReadAnswer 0 (.okay (List.replicate 9 0))).wf = false := by decide
theorem test_wf_block_39 : (Instr.windowConfig 0 (List.replicate 39 0)).wf = false := by decide
theorem test_wf_drain_mode : (Instr.disableDrain 0 1).wf = false := by decide
theorem test_wf_listed_code : (Instr.unknownCommand 0x3F).wf = false := by decide

/-! ## The decoder: no row gives bits -/

theorem test_no_word : decodeTableWord 8 1 = none ∧ Part.reset = (State.reset.withFetchWord 8 1).part := by decide +kernel

/-! ## The statements' hypotheses are met: steps, resets and the management link -/

theorem test_hyps_StepTakesTheFrontCommand : (⟨[.engineTake, .frameEnd], Part.reset⟩ : State).pending = .engineTake :: [.frameEnd]
    ∧ State.reset.pending = [] := by decide +kernel

theorem test_hyps_ColdResetAndRelease : (after .coldReset Part.reset).resetn = .low ∧ Part.reset.resetn = .high
    ∧ (∀ a b, Instr.getStatus ≠ .resetnRelease a b) ∧ Instr.getStatus ≠ .coldReset
    ∧ Instr.getStatus ≠ .frameAborted ∧ Instr.getStatus ≠ .frameEnd :=
  ⟨by decide +kernel, by decide +kernel, fun _ _ => nofun, nofun, nofun, nofun⟩

theorem test_hyps_GetStatusReturnsTable113 : Part.reset.resetn = .high ∧ Part.reset.engine = none
    ∧ (busy Part.reset (work .draining 1 0 2 none)).engine = some (work .draining 1 0 2 none) := by decide +kernel

theorem test_hyps_ReadWindowReturnsTable114 : Part.reset.resetn = .high ∧ (0 : Byte).toNat = (0 : WinIdx).val
    ∧ (15 : Byte).toNat = (15 : WinIdx).val ∧ ((liveS gen0 none).win 0).openGen = some gen0
    ∧ (∀ st ∈ [GenState.closed, .checking, .draining, .stamping],
        ((liveS gen0 (some (genIn st []))).win 0).pubGen = some (genIn st []) ∧ (genIn st []).state = st)
    ∧ (Part.reset.win 0).openGen = none ∧ (Part.reset.win 0).pubGen = none := by decide +kernel

theorem test_hyps_ConfigBlockKeptWhole : (List.replicate 40 (0xFF : Byte)).length = 40 := by decide

/-- An open frame whose answer, a status byte and one result byte, is out on MDO but for a number of bits. -/
def answering (chosen : Option Nat) (shifted : Nat) : Part :=
  { Part.reset with msel := .lowInFrame, link := some ⟨0x21, .badCode, [0x01], chosen, shifted⟩ }

theorem test_hyps_FramesAndStatusTests_mdo :
    ((answering none 0).resetn = .high ∧ (answering none 0).msel = .lowInFrame ∧ (answering (some 0) 16).link
      = some ⟨0x21, .badCode, [0x01], some 0, 16⟩ ∧ 16 = 8 * (([0x01] : List Byte).length + 1) ∧ (0 : Nat) ≠ 16)
    ∧ ({ Part.reset with msel := .lowNoFrame } : Part).msel ≠ .high := by decide +kernel

theorem test_hyps_FramesAndStatusTests :
    ((0 : Byte) ≠ 1 ∧ cfgF.toBlock.length = 40 ∧ (List.replicate 8 (0xFF : Byte)).length = 8
      ∧ (0x7F : Byte) ∉ commandCodes ∧ (frameCommand [0x12, 3]).isSome = true ∧ ([0x12, 3] : List Byte) <+: [0x12, 3, 0]
      ∧ ([0x12] : List Byte) <+: [0x12, 3] ∧ frameCommand [0x12, 3] = some (.enable 3))
    ∧ (Part.reset.select.resetn = .high ∧ Part.reset.select.msel = .lowInFrame ∧ Part.reset.select.link = none
      ∧ Part.reset.select.incoming = [] ∧ Part.reset.msel = .high ∧ Part.reset.select.msel ≠ .high
      ∧ Part.reset.msel ≠ .lowInFrame ∧ (after .coldReset Part.reset).msel = .high)
    ∧ (∀ k, frameCommand (([0x14, 0x0A] : List Byte).take k) = none)
    ∧ ((after .coldReset Part.reset).resetn = .low ∧ (after .getStatus Part.reset).link ≠ none
      ∧ (Instr.takeEvent 0).busyFrame = some (0x21, 16)
      ∧ ({ Part.reset with device := .restarting } : Part).device = .restarting
      ∧ (Instr.enable 16).busyFrame = some (0x12, 0) ∧ (Instr.enable 16).windowArg = some 16 ∧ 16 ≤ (16 : Byte).toNat
      ∧ Part.reset.device = .running) :=
  ⟨by decide +kernel, by decide +kernel,
   fun k => by rcases k with _ | _ | k <;> simp [frameCommand, argumentBytes], by decide +kernel⟩

theorem test_hyps_WindowConfigOnlyWhileOff : Part.reset.Ready ∧ (Part.reset.win 0).state = .off
    ∧ (liveS gen0 none).Ready ∧ ((liveS gen0 none).win 0).state ≠ .off := by decide +kernel

/-- A window whose quota of two is used up, by policy, and one with a request held for SPACE besides. -/
def twoSlots : Gen := { gen0 with slots := [fullSlot, { fullSlot with line := 0x1040 }] }
def fullS (policy : Policy) : Part := partOf (winOf { cfgS with policy := policy } .live (some twoSlots) none)
def spaceHeld : Part := holding (fullS .wait) [entry .space 0x1080 (.view 2) 3]

theorem test_hyps_WindowAdjustReplacesSixFields : (Part.reset.Ready ∧ (∀ e ∈ Part.reset.hold, e.reason ≠ .space)
      ∧ Part.reset.offerDue = false
      ∧ (1 ≤ (15 : Byte).toNat ∧ (15 : Byte).toNat ≤ 15 ∧ 1 ≤ (512 : BitVec 16).toNat ∧ (512 : BitVec 16).toNat ≤ 512
        ∧ (1 : Byte).toNat ≤ 1 ∧ (7 : Byte).toNat ≤ 7 ∧ (1 : Byte).toNat ≤ 1
        ∧ (15 : Byte).toNat ≤ MasterSet.size (0x7FFF : MasterSet))
      ∧ ¬(1 ≤ (0 : Byte).toNat) ∧ ¬((513 : BitVec 16).toNat ≤ 512) ∧ ¬((8 : Byte).toNat ≤ 7)
      ∧ ¬((2 : Byte).toNat ≤ MasterSet.size (2 : MasterSet)))
    ∧ (spaceHeld.Ready ∧ spaceHeld.offerDue = false ∧ (1 : Byte).toNat ≤ MasterSet.size (2 : MasterSet))
    ∧ (spaceHeld.setWin 0 { spaceHeld.win 0 with
        cfg := { (spaceHeld.win 0).cfg with
          producers := 2, expected := (1 : Byte).toNat, quota := (3 : BitVec 16).toNat
          policy := if (1 : Byte) = 1 then .wait else .refuse
          priority := (7 : Byte).setWidth 3, target := (1 : Byte).setWidth 1 } }).Offers
        (entry .space 0x1080 (.view 2) 3) twoSlots :=
  ⟨by decide +kernel, by decide +kernel, offers_of (l := 2) (by decide +kernel)⟩

/-- W0 OFF with a configuration, beside W1 LIVE with another. -/
def beside (c d : WinConfig) : Part :=
  { partOf (winOf c .off none none) with
    windows := (Part.reset.windows.set 0 (winOf c .off none none)).set 1 (winOf d .live (some gen0) none) }

/-- W0's configuration clear of the others, with a bank of its own. -/
def clear : WinConfig := { cfgF with viewBase := 0x50000, imageA := 0x50000, imageB := 0x60000, commitAddr := 0x2040, bank := 1 }

theorem test_hyps_EnableMakesLive :
    ((beside clear cfgF).Ready ∧ ((beside clear cfgF).win 0).state = .off ∧ (beside clear cfgF).enableValid 0 = true
      ∧ ((beside clear cfgF).win 0).cfg.kind = .flip ∧ (partOf (winOf cfgS .off none none)).enableValid 0 = true
      ∧ ((partOf (winOf cfgS .off none none)).win 0).cfg.kind = .staged ∧ ((liveS gen0 none).win 0).state ≠ .off)
    ∧ ∀ c ∈ [{ clear with quota := 513 }, { clear with imageB := 0xFFFFFFFFC0 }, { clear with imageB := 0x50000 },
        { clear with commitAddr := 0x50040 }, { clear with viewBase := 0x20000 },
        { clear with guardOp := .eq, guardAddr := 0x50004 }, { clear with expected := 2 }, { clear with bank := 0 },
        { clear with onReject := .discard }, { clear with trigger := .unlisted }], (beside c cfgF).enableValid 0 = false := by
  decide +kernel

/-- The LIVE window W0 of a configuration with both generations, the maps of its bank, and the engine draining another
window. -/
def liveOf (c : WinConfig) (o : Gen) (g : Option Gen) (b : Bank) : Part :=
  busy { partOf (winOf c .live (some o) g) with banks := Part.reset.banks.set 0 b } { work .draining 1 0 2 none with window := 1 }

/-- A generation whose close pends. -/
def pends : Gen := { gen0 with remaining := 0, closePending := true }

theorem test_hyps_DisableByWindowState :
    ((∀ p ∈ [liveOf cfgS pends (some (genIn .closed [])) Bank.clear, liveOf cfgS (genIn .opened [partSlot]) (some (genIn .draining [])) Bank.clear,
        liveOf cfgF gen0 (some (genIn .stamping [])) ⟨1, 0⟩, liveOf cfgS { gen0 with remaining := 1, creation := 2, arrived := 2 } none Bank.clear,
        liveOf cfgF gen0 none ⟨0, 3⟩, liveS gen0 none], p.Accounted)
    ∧ (Part.reset.Ready ∧ 1 < (2 : Byte).toNat ∧ (Part.reset.win 0).state = .off
      ∧ ((partOf (winOf cfgS .retiring none (some (genIn .draining [])))).win 0).state = .retiring
      ∧ ((partOf (winOf cfgF .halted none none)).win 0).state = .halted
      ∧ ((partOf (winOf cfgF .halted none none)).win 0).cfg.kind = .flip ∧ ((liveS gen0 none).win 0).state = .live))
    -- DRAIN of a LIVE window
    ∧ ((let p := liveOf cfgS pends (some (genIn .closed [])) Bank.clear
       p.Ready ∧ p.AtRest ∧ (p.win 0).openGen = some pends ∧ pends.closePending = true ∧ (p.win 0).pubGen ≠ none)
    ∧ (let p := liveOf cfgS (genIn .opened [partSlot]) (some (genIn .draining [])) Bank.clear
       p.AtRest ∧ (p.win 0).openGen = some (genIn .opened [partSlot]) ∧ (genIn .opened [partSlot]).closePending = false
        ∧ (p.win 0).cfg.kind = .staged ∧ (genIn .opened [partSlot]).slots ≠ [] ∧ (p.win 0).pubGen ≠ none)
    ∧ (let p := liveOf cfgF gen0 (some (genIn .stamping [])) ⟨1, 0⟩
       p.AtRest ∧ (p.win 0).cfg.kind = .flip ∧ (p.win 0).pubUnseen = false ∧ p.dirtyMap 0 ≠ 0 ∧ (p.win 0).pubGen ≠ none)
    ∧ (let p := liveOf cfgS { gen0 with remaining := 1, creation := 2, arrived := 2 } none Bank.clear
       p.AtRest ∧ (p.win 0).pubGen = none ∧ p.engine ≠ none ∧ 0 ∉ p.queue)
    ∧ (let p := liveOf cfgF gen0 none ⟨0, 3⟩
       p.AtRest ∧ gen0.slots = [] ∧ gen0.arrived = 0 ∧ p.dirtyMap 0 = 0 ∧ p.carryMap 0 ≠ 0)
    ∧ (let p := liveS gen0 none
       p.AtRest ∧ (p.win 0).pubGen = none ∧ p.carryMap 0 = 0 ∧ (p.win 0).haltPending = false))
    -- DISCARD
    ∧ ((∀ g ∈ [some (genIn .closed []), some (genIn .draining [])],
        let p := liveOf cfgS gen0 g Bank.clear
        p.offerDue = false ∧ (∀ e ∈ p.hold, e.reason = .space → e.window = 0) ∧ (p.unchecked 0).engine ≠ none ∧ p.queue = []
          ∧ (p.win 0).pubGen = g ∧ (p.win 0).haltPending = false)
    ∧ (genIn .closed []).state = .closed ∧ ((liveOf cfgS gen0 (some (genIn .closed [])) Bank.clear).win 0).pubUnseen = true
    ∧ ((liveOf cfgS gen0 (some (genIn .draining [])) Bank.clear).win 0).pubUnseen = false
    ∧ ((liveOf cfgF gen0 none ⟨0, 3⟩).bank 0).carry ||| ((liveOf cfgF gen0 none ⟨0, 3⟩).bank 0).dirty ≠ 0) :=
  ⟨met (by decide +kernel), by decide +kernel, by decide +kernel⟩

/-- The LIVE window W0 with the FENCE entry given, its new generation expecting so many arrivals. -/
def fenceHeld (e : HoldEntry) (expected : Nat) : Part :=
  holding (liveOf { cfgS with expected := expected, producers := 6 } gen0 none Bank.clear) [e]

theorem test_hyps_CloseCommandByState :
    ((∀ p ∈ [liveOf cfgS gen0 none Bank.clear, fenceHeld (entry .fence 0x1080 (.view 2) 3) 1, fenceHeld (entry .fence 0x2000 .commit 3) 2],
        p.Accounted)
      ∧ (Part.reset.Ready ∧ (Part.reset.win 0).state ≠ .live ∧ ((liveS pends none).win 0).openGen = some pends)
      ∧ (let p := liveS gen0 (some (genIn .closed []))
         p.Ready ∧ p.AtRest ∧ (p.win 0).openGen = some gen0 ∧ gen0.closePending = false ∧ (p.win 0).pubGen ≠ none)
      ∧ (let p := liveOf cfgS gen0 none Bank.clear
         p.Ready ∧ (p.win 0).pubGen = none ∧ p.engine ≠ none ∧ p.offerDue = false ∧ 0 ∉ p.queue ∧ p.hold = [])
      ∧ (∀ n ∈ [1, 2],
          let p := fenceHeld (entry .fence 0x2000 .commit 3) n
          let closed := p.closing 0 { gen0 with remaining := 0 } (some 9)
          (p.hold.filter fun e => e.window = 0 && e.reason = .fence) = [entry .fence 0x2000 .commit 3]
            ∧ classify p.windows (wr 1 0x2000 1) = .commitArrival 0
            ∧ MasterSet.has (p.win 0).cfg.producers 1 = true
            ∧ (closed.win 0).openGen = some { gen0 with number := 1, creation := n, remaining := n }))
    ∧ ((fenceHeld (entry .fence 0x1080 (.view 2) 3) 1).closing 0 { gen0 with remaining := 0 } (some 9)).Admits
        (entry .fence 0x1080 (.view 2) 3) { gen0 with number := 1 } :=
  ⟨met (by decide +kernel), admits_of (l := 2) (by decide +kernel)⟩

/-- The LIVE window W0 with two slots, no slot free, and a request held for SPACE. -/
def noneFree : Part := { spaceHeld with freeSlots := 0 }

theorem test_hyps_DropOpenEmptiesTheGeneration :
    ((∀ p ∈ [liveS gen0 none, noneFree], p.Accounted)
      ∧ ((partOf (winOf cfgF .retiring none (some (genIn .stamping [])))).win 0).state = .retiring
      ∧ ((liveF none Bank.clear).win 0).cfg.kind = .flip ∧ ((liveF none Bank.clear).win 0).state ≠ .retiring
      ∧ (Part.reset.win 0).cfg.kind = .staged ∧ (Part.reset.win 0).state ≠ .live
      ∧ ((liveS gen0 none).win 0).cfg.kind = .staged ∧ ((liveS gen0 none).win 0).state = .live
      ∧ ((liveS gen0 none).win 0).openGen = some gen0 ∧ (liveS gen0 none).offerDue = false
      ∧ (∀ e ∈ (liveS gen0 none).hold, e.reason ≠ .space)
      ∧ (noneFree.win 0).openGen = some twoSlots ∧ twoSlots.slots ≠ [])
    ∧ ((({ noneFree with freeSlots := noneFree.freeSlots + twoSlots.slots.length } : Part).setWin 0 { noneFree.win 0 with
          openGen := some { twoSlots with slots := [], remaining := twoSlots.creation, arrived := 0, closePending := false } }).answering
          (fun e => e.window = 0 && (e.reason = .close || e.reason = .fence)) .retry).Offers
        (entry .space 0x1080 (.view 2) 3) gen0 :=
  ⟨met (by decide +kernel), offers_of (l := 2) (by decide +kernel)⟩

theorem test_hyps_ClearFaultMakesLive : (liveS gen0 none).Ready ∧ ((liveS gen0 none).win 0).state ≠ .halted
    ∧ (∀ c ∈ [cfgS, cfgF], ((partOf (winOf c .halted none none)).win 0).state = .halted
        ∧ ((partOf (winOf c .halted none none)).win 0).cfg.kind = c.kind)
    ∧ cfgS.kind = .staged ∧ cfgF.kind = .flip ∧ 1 ≤ cfgF.lines := by decide +kernel

theorem test_hyps_SetStampWithoutPublication : Part.reset.Ready ∧ (Part.reset.win 0).pubGen = none
    ∧ ((liveS gen0 (some (genIn .closed []))).win 0).pubGen ≠ none := by decide +kernel

theorem test_hyps_SetFloor : Part.reset.resetn = .high ∧ Part.reset.device = .running ∧ (7 : Byte).toNat ≤ 7 ∧ 7 < (8 : Byte).toNat
    ∧ 1 < (2 : Byte).toNat ∧ ({ Part.reset with device := .restarting } : Part).device = .restarting
    ∧ ({ Notify.reset with floor1 := 7 } : Notify).floor 1 = 7 := by decide +kernel

theorem test_hyps_SetDeviceEvents : Part.reset.resetn = .high ∧ Part.reset.device = .running ∧ (7 : Byte).toNat ≤ 7
    ∧ (1 : Byte).toNat ≤ 1 ∧ 7 < (8 : Byte).toNat := by decide +kernel

theorem test_hyps_SetStrobe : Part.reset.resetn = .high ∧ Part.reset.device = .running ∧ (1 : Byte).toNat ≤ 1
    ∧ 1 < (2 : Byte).toNat
    ∧ (let p : Part := { Part.reset with stb0 := ⟨.falling, .low⟩ }
       (p.strobe .stb0).polarity = .falling ∧ (p.strobe .stb0).last = .low) := by decide +kernel

theorem test_hyps_SetTimers : Part.reset.Ready
    ∧ (1 ≤ (250 : Byte).toNat ∧ (250 : Byte).toNat ≤ 250 ∧ 1 ≤ (1 : BitVec 16).toNat ∧ 1 ≤ (65535 : BitVec 16).toNat)
    ∧ ¬((251 : Byte).toNat ≤ 250) ∧ ¬(1 ≤ (0 : BitVec 16).toNat) := by decide +kernel

/-- An event for target 1. -/
def ev (k : EventKind) (pr : Priority) : Event := ⟨k, pr, 1, none⟩

theorem test_hyps_NotifyLineLevel : 32 ≤ ({ Notify.reset with events := List.replicate 32 (ev .windowOff 3) } : Notify).events.length
    ∧ (ev .windowOff 0).priority = 0 := by decide +kernel

theorem test_hyps_PostOrDrop : Notify.reset.events.length < 32
    ∧ ({ Notify.reset with events := List.replicate 32 (ev .windowOff 3), loss := 254 } : Notify).loss < 255
    ∧ ({ Notify.reset with events := List.replicate 32 (ev .windowOff 3), loss := 255 } : Notify).loss = 255 := by
  decide +kernel

theorem test_hyps_TakeEventChooses : Part.reset.resetn = .high ∧ Part.reset.device = .running ∧ 1 < (2 : Byte).toNat
    ∧ (1 : Byte).toNat ≤ 1 ∧ (∀ e ∈ Part.reset.notify.events, e.target ≠ (1 : Byte).setWidth 1)
    ∧ (∃ e ∈ ({ Part.reset with notify := { Notify.reset with events := [ev .windowOff 3] } } : Part).notify.events,
        e.target = (1 : Byte).setWidth 1) := by decide +kernel

theorem test_hyps_EventRecordLayout : (32767 : Nat) < 32768 := by decide

/-- A frame of TAKE_EVENT. -/
def frame (chosen : Option Nat) : Frame := ⟨0x21, .ok, [], chosen, 0⟩

theorem test_hyps_ChosenRecordLeaves : Part.reset.resetn = .high
    ∧ ({ Part.reset with link := some (frame (some 0)) } : Part).link = some (frame (some 0))
    ∧ (frame (some 0)).chosen = some 0 ∧ (frame none).chosen = none := by decide +kernel

/-- Parts a RESTART settles at once, one with a carry read that waits; and one that it does not settle. -/
def idleHeld : Part := holding (liveS gen0 none) [held .fence none 3 1000]
def readWaits : Part :=
  let p := liveF none ⟨0, 3⟩
  { p with
    nextId := 4, carry := ⟨[0], [], [⟨0, 0, 3⟩]⟩
    down := { Down.reset with carry := [{ p.carryReadRequest 0 0 with id := 3 }] } }
def writeOut : Part :=
  { holding (asked (liveF none ⟨0, 3⟩) .carryWrite .part) [entry .carry 0x10040 (.view 1) 4] with
    carry := ⟨[0], [⟨0, 1, 4⟩], [⟨0, 0, 3⟩]⟩ }

theorem test_hyps_RestartAnswersTheHoldQueue : (∀ p ∈ [idleHeld, readWaits, writeOut], p.Accounted)
    ∧ (∀ p ∈ [idleHeld, readWaits, writeOut], p.Ready ∧ ∀ d ∈ p.carry.demand, ∃ e ∈ p.hold, e.seq = d.seq)
    ∧ (idleHeld.engine = none ∧ idleHeld.carry.inFlight = [] ∧ idleHeld.down.table = []
      ∧ (∀ x ∈ idleHeld.down.publish ++ idleHeld.down.carry, x.origin ≠ .part))
    ∧ ((after .restart idleHeld).device = .running ∧ (after .restart readWaits).device = .running
      ∧ (after .restart writeOut).device = .restarting) :=
  met (by decide +kernel)

theorem test_hyps_WarmResetCompletion :
    (let p : Part := { asked Part.reset .passRead up with device := .restarting }
     p.resetn = .high ∧ p.device = .restarting ∧ p.engine = none ∧ p.carry.inFlight = []
      ∧ (∀ e ∈ p.down.table, e.req.origin = .part → e.expired = true))
    ∧ (∃ e ∈ (asked Part.reset .guardRead .part).down.table, e.req.origin = .part ∧ e.expired = false) := by decide +kernel

/-! ## The statements' hypotheses are met: requests -/

theorem test_hyps_AlignmentRefusal : Part.reset.resetn = .high ∧ 64 ≤ ({ Part.reset with openCount := 64 } : Part).openCount
    ∧ ({ Part.reset with openCount := 63 } : Part).openCount < 64
    ∧ ¬((rd 1 0x1004 1).addr.toNat % 8 = 0 ∧ beatOf (rd 1 0x1004 1).addr + (rd 1 0x1004 1).beats ≤ 8)
    ∧ ¬((rd 1 0x1038 2).addr.toNat % 8 = 0 ∧ beatOf (rd 1 0x1038 2).addr + (rd 1 0x1038 2).beats ≤ 8)
    ∧ (rd 1 0x1038 1).addr.toNat % 8 = 0 ∧ beatOf (rd 1 0x1038 1).addr + (rd 1 0x1038 1).beats ≤ 8
    ∧ alignedRequest (rd 1 0x1040 8) = true := by decide +kernel

theorem test_hyps_PassThroughTake : (∀ p ∈ [Part.reset], p.Accounted) ∧ Part.reset.resetn = .high
    ∧ Part.reset.CanTake (wr 1 0x9000 8) ∧ classify Part.reset.windows (wr 1 0x9000 8) = .passThrough :=
  met (by decide +kernel)

theorem test_hyps_CarriedBytes : (wr 1 0x1038 1).data.length = (wr 1 0x1038 1).beats
    ∧ beatOf (wr 1 0x1038 1).addr + (wr 1 0x1038 1).beats ≤ 8 := by decide

theorem test_hyps_AdmittedWrite :
    (let p := liveS gen0 none
     p.Ready ∧ p.CanTake (wr0 1 0x1000) ∧ classify p.windows (wr0 1 0x1000) = .stagedProducerWrite 0 0
      ∧ (p.win 0).state = .live ∧ (p.win 0).openGen = some gen0 ∧ MasterSet.has gen0.arrived 1 = false
      ∧ (∀ i < 64, byteAt (carriedBytes (wr0 1 0x1000)) i = none)
      ∧ classify p.windows (wr 1 0x10C0 8) = .stagedProducerWrite 0 3
      ∧ (∃ i < 64, byteAt (carriedBytes (wr 1 0x10C0 8)) i ≠ none) ∧ (∀ x ∈ gen0.slots, x.line ≠ lineOf 0x10C0)
      ∧ (p.win 0).holding < (p.win 0).cfg.quota ∧ 0 < p.freeSlots)
    ∧ (∃ x ∈ (genIn .opened [partSlot]).slots, x.line = lineOf (wr 1 0x1008 1).addr) := by decide +kernel

theorem test_hyps_ExhaustedWrite :
    (∀ p ∈ [fullS .refuse, fullS .wait, holding (fullS .wait) sixteen], p.Accounted)
    ∧ (let p := fullS .refuse
       p.Ready ∧ p.CanTake (wr 1 0x1080 1) ∧ classify p.windows (wr 1 0x1080 1) = .stagedProducerWrite 0 2
        ∧ (p.win 0).state = .live ∧ (p.win 0).openGen = some twoSlots ∧ MasterSet.has twoSlots.arrived 1 = false
        ∧ (∃ i < 64, byteAt (carriedBytes (wr 1 0x1080 1)) i ≠ none) ∧ (∀ x ∈ twoSlots.slots, x.line ≠ lineOf 0x1080)
        ∧ (p.win 0).cfg.quota ≤ (p.win 0).holding ∧ (p.win 0).cfg.policy = .refuse)
    ∧ ((fullS .wait).win 0).cfg.policy = .wait ∧ (fullS .wait).hold.length < 16
    ∧ 16 ≤ (holding (fullS .wait) sixteen).hold.length :=
  met (by decide +kernel)

/-- A window whose producer 1 has arrived. -/
def arrived : Gen := { gen0 with remaining := 1, creation := 2, arrived := 2 }

theorem test_hyps_FencedWrite :
    (∀ p ∈ [liveS arrived none, holding (liveS arrived none) sixteen], p.Accounted)
    ∧ (let p := liveS arrived none
       p.Ready ∧ p.CanTake (wr 1 0x1000 1) ∧ p.AtRest ∧ classify p.windows (wr 1 0x1000 1) = .stagedProducerWrite 0 0
        ∧ (p.win 0).state = .live ∧ (p.win 0).openGen = some arrived ∧ MasterSet.has arrived.arrived 1 = true
        ∧ p.hold.length < 16)
    ∧ 16 ≤ (holding (liveS arrived none) sixteen).hold.length
    ∧ (holding (liveS arrived none) sixteen).CanTake (wr 1 0x1000 1)
    ∧ classify (liveF none Bank.clear).windows (wr 1 0x10000 1) = .flipProducerWrite 0 0 :=
  met (by decide +kernel)

theorem test_hyps_TurnedAwayByState :
    (let p := partOf (winOf cfgS .retiring none (some (genIn .draining [])))
     p.Ready ∧ p.CanTake (wr 1 0x1000 1) ∧ p.AtRest ∧ classify p.windows (wr 1 0x1000 1) = .stagedProducerWrite 0 0
      ∧ (p.win 0).state = .retiring)
    ∧ (let p := partOf (winOf cfgS .halted none none)
       p.Ready ∧ p.CanTake (wr 1 0x2000 1) ∧ p.AtRest ∧ classify p.windows (wr 1 0x2000 1) = .commitArrival 0
        ∧ MasterSet.has (p.win 0).cfg.producers 1 = true ∧ (p.win 0).state = .halted)
    ∧ classify (partOf (winOf cfgF .halted none none)).windows (wr 1 0x10000 1) = .flipProducerWrite 0 0 := by decide +kernel

theorem test_hyps_ConsumerWriteRefused :
    (let p := liveS gen0 none
     p.Ready ∧ p.CanTake (wr 9 0x10C0 1) ∧ classify p.windows (wr 9 0x10C0 1) = .stagedConsumerWrite 0 3
      ∧ classify p.windows (wr 9 0x2000 1) = .commitArrival 0 ∧ p.AtRest
      ∧ MasterSet.has (p.win 0).cfg.producers 9 = false)
    ∧ classify (liveF none Bank.clear).windows (wr 9 0x20040 1) = .flipConsumerWrite 0 1 := by decide +kernel

theorem test_hyps_RetryWhileRestarting :
    (let p : Part := { asked (liveS gen0 none) .drainWrite .part with device := .restarting }
     p.resetn = .high ∧ p.device = .restarting ∧ p.CanTake (wr 1 0x1000 1)
      ∧ classify p.windows (wr 1 0x1000 1) ≠ .passThrough ∧ p.restartSettled = false ∧ p.offerDue = false) := by
  decide +kernel

theorem test_hyps_CommitLineReads :
    (let p := liveS gen0 none
     p.Ready ∧ p.CanTake (rd 9 0x2000 1) ∧ classify p.windows (rd 9 0x2000 1) = .commitStatusRead 0
      ∧ classify p.windows (rd 9 0x2000 8) = .commitMalformed 0 ∧ p.CanTake (rd 9 0x2000 8)
      ∧ classify p.windows (wr 1 0x2008 1) = .commitMalformed 0 ∧ (p.win 0).pubGen = none)
    ∧ ∀ st ∈ [GenState.closed, .checking, .draining, .stamping],
        ((liveS gen0 (some (genIn st []))).win 0).pubGen = some (genIn st []) ∧ (genIn st []).state = st := by decide +kernel

/-- A generation that expects two arrivals. -/
def two : Gen := { gen0 with remaining := 2, creation := 2 }

theorem test_hyps_ArrivalHeld :
    (∀ p ∈ [liveS two none, liveS arrived none, holding (liveS two none) sixteen, liveS gen0 (some (genIn .closed []))],
      p.Accounted)
    ∧ (let p := liveS two none
       p.Ready ∧ p.CanTake (wr 1 0x2000 1) ∧ p.AtRest ∧ classify p.windows (wr 1 0x2000 1) = .commitArrival 0
        ∧ MasterSet.has (p.win 0).cfg.producers 1 = true ∧ (p.win 0).state = .live ∧ (p.win 0).openGen = some two
        ∧ MasterSet.has two.arrived 1 = false ∧ 1 < two.remaining ∧ p.hold.length < 16)
    ∧ (MasterSet.has arrived.arrived 1 = true ∧ ((liveS arrived none).win 0).openGen = some arrived)
    ∧ (gen0.remaining = 1 ∧ ((liveS gen0 (some (genIn .closed []))).win 0).pubGen ≠ none)
    ∧ (holding (liveS two none) sixteen).CanTake (wr 1 0x2000 1) :=
  met (by decide +kernel)

theorem test_hyps_ArrivalClosesAtOnce :
    (∀ p ∈ [liveOf cfgS gen0 none Bank.clear], p.Accounted)
    ∧ (let p := liveOf cfgS gen0 none Bank.clear
       p.Ready ∧ p.CanTake (wr 1 0x2000 1) ∧ p.engine ≠ none ∧ p.offerDue = false
        ∧ (∀ e ∈ p.hold, e.window = 0 → e.reason ≠ .fence) ∧ 0 ∉ p.queue
        ∧ classify p.windows (wr 1 0x2000 1) = .commitArrival 0 ∧ MasterSet.has (p.win 0).cfg.producers 1 = true
        ∧ (p.win 0).state = .live ∧ (p.win 0).openGen = some gen0 ∧ MasterSet.has gen0.arrived 1 = false
        ∧ gen0.remaining = 1 ∧ (p.win 0).pubGen = none) :=
  met (by decide +kernel)

theorem test_hyps_StagedConsumerRead :
    (∀ p ∈ [liveS gen0 (some (genIn .draining [fullSlot])), liveS gen0 none], p.Accounted)
    ∧ (let p := liveS gen0 (some (genIn .draining [fullSlot]))
       p.Ready ∧ p.CanTake (rd 9 0x1038 1) ∧ classify p.windows (rd 9 0x1038 1) = .stagedConsumerRead 0 0
        ∧ (p.win 0).state ≠ .halted ∧ (p.win 0).pubGen = some (genIn .draining [fullSlot])
        ∧ drainFailing p.engine 0 = false ∧ (genIn .draining [fullSlot]).slotFor (lineOf 0x1038) = some fullSlot)
    ∧ (∀ i < 64, byteAt fullSlot.bytes i ≠ none) ∧ ¬(∀ i < 64, byteAt partSlot.bytes i ≠ none)
    ∧ (genIn .draining [partSlot]).slotFor (lineOf 0x1038) = some partSlot
    ∧ ((liveS gen0 none).win 0).pubGen = none ∧ (genIn .draining [fullSlot]).slotFor 0x1040 = none :=
  met (by decide +kernel)

theorem test_hyps_StagedProducerRead :
    (∀ p ∈ [liveS (genIn .opened [partSlot]) (some (genIn .closed [fullSlot])), liveS gen0 none], p.Accounted)
    ∧ (let p := liveS (genIn .opened [partSlot]) (some (genIn .closed [fullSlot]))
       p.Ready ∧ p.CanTake (rd 1 0x1000 8) ∧ classify p.windows (rd 1 0x1000 8) = .stagedProducerRead 0 0
        ∧ (p.win 0).state ≠ .halted ∧ slotOf (p.win 0).openGen 0x1000 = some partSlot
        ∧ slotOf (p.win 0).pubGen 0x1000 = some fullSlot
        ∧ (∃ g ∈ (p.win 0).pubGen, g.state = .closed ∨ g.state = .checking))
    ∧ slotOf ((liveS gen0 none).win 0).openGen 0x1000 = none ∧ slotOf ((liveS gen0 none).win 0).pubGen 0x1000 = none
    ∧ slotOf ((liveS (genIn .opened [fullSlot]) none).win 0).openGen 0x1000 = some fullSlot
    ∧ slotOf ((liveS gen0 (some (genIn .draining [partSlot]))).win 0).pubGen 0x1000 = some partSlot
    ∧ (∃ g ∈ ((liveS gen0 (some (genIn .draining [partSlot]))).win 0).pubGen, g.state = .draining)
    ∧ ((partOf (winOf cfgS .halted none none)).win 0).state = .halted :=
  met (by decide +kernel)

theorem test_hyps_FlipReads :
    (∀ p ∈ [liveF none ⟨0, 2⟩, partOf (winOf cfgF .halted none none)], p.Accounted)
    ∧ (let p := liveF none ⟨0, 2⟩
       p.Ready ∧ p.CanTake (rd 9 0x10000 8) ∧ classify p.windows (rd 9 0x10000 8) = .flipConsumerRead 0 0
        ∧ classify p.windows (rd 1 0x10040 8) = .flipProducerRead 0 1 ∧ (p.win 0).state ≠ .halted
        ∧ LineMap.has (p.carryMap 0) 1 = true ∧ LineMap.has (p.carryMap 0) 0 = false
        ∧ (∀ c ∈ p.carry.inFlight, ¬(c.window = 0 ∧ c.line = 0)))
    ∧ classify (partOf (winOf cfgF .halted none none)).windows (rd 1 0x10000 8) = .flipProducerRead 0 0
    ∧ ((partOf (winOf cfgF .halted none none)).win 0).state = .halted :=
  met (by decide +kernel)

theorem test_hyps_FlipWrites :
    (∀ p ∈ [liveF none ⟨0, 3⟩, liveF (some (genIn .checking [])) Bank.clear, holding (liveF none ⟨0, 3⟩) sixteen], p.Accounted)
    ∧ (let p := liveF none ⟨0, 3⟩
       p.Ready ∧ p.CanTake (wr 1 0x10000 8) ∧ p.AtRest ∧ classify p.windows (wr 1 0x10000 8) = .flipProducerWrite 0 0
        ∧ (p.win 0).state = .live ∧ (p.win 0).openGen = some gen0 ∧ MasterSet.has gen0.arrived 1 = false
        ∧ LineMap.has (p.carryMap 0) 0 = true
        ∧ ((wr 1 0x10000 8).beats = 8 ∧ beatOf (wr 1 0x10000 8).addr = 0
          ∧ ∀ i < 64, byteAt (carriedBytes (wr 1 0x10000 8)) i ≠ none)
        ∧ p.carry.inFlight = [] ∧ p.hold = [] ∧ LineMap.remove (p.bank 0).carry 0 ≠ 0
        ∧ (wr 1 0x10000 1).beats ≠ 8 ∧ LineMap.has (p.carryMap 0) 3 = false
        ∧ (∀ i < 64, byteAt (carriedBytes (wr0 1 0x10000)) i = none))
    ∧ (∃ x ∈ ((liveF (some (genIn .checking [])) Bank.clear).win 0).pubGen, x.state = .closed ∨ x.state = .checking)
    ∧ ¬(holding (liveF none ⟨0, 3⟩) sixteen).hold.length < 16 :=
  met (by decide +kernel)

/-! ## The statements' hypotheses are met: answers, time, strobes, the part's own steps -/

/-- A part whose engine checks the FLIP window W0 and has not begun, with one outstanding request, or two. -/
def unsettled (guardOp : GuardOp) : Part :=
  busy (asked { partOf (winOf { cfgF with guardOp := guardOp } .live (some gen0) (some (genIn .checking []))) with
      banks := Part.reset.banks.set 0 ⟨1, 0⟩ } .redirectedWrite up)
    { work .checking 0 0 0 none with begun := false }
def another (p : Part) : Part :=
  { p with
    openCount := 2, nextId := 5
    down := { p.down with table := p.down.table ++ (p.down.table.map fun e => { e with req := { e.req with id := 4 } }) } }

theorem test_hyps_ForwardedAnswers :
    (∀ p ∈ [asked (liveS gen0 none) .viewRead up, asked (liveS gen0 none) .passRead up, asked (liveS gen0 none) .passWrite up,
        asked (liveF none Bank.clear) .redirectedWrite up, unsettled .gtu, another (unsettled .gtu)], p.Accounted)
    ∧ (∀ k ∈ [DownKind.viewRead, .passRead, .passWrite],
        let p := asked (liveS gen0 none) k up
        p.resetn = .high ∧ p.down.table.length = 1
          ∧ ∀ e ∈ p.down.table, e.expired = false ∧ e.req.origin = .upstream 5 1 0x1000 ∧ e.req.kind = k
              ∧ e.req.first + e.req.beats ≤ 8 ∧ ([7] : List Beat).length = e.req.beats)
    ∧ (∀ p ∈ [asked (liveF none Bank.clear) .redirectedWrite up, at' 250 (unsettled .gtu), at' 250 (another (unsettled .gtu))],
        p.Ready ∧ p.AtRest ∧ ∀ e ∈ p.down.table, e.req.kind = .redirectedWrite ∧ e.req.window = some 0 ∧ e.expired = false)
    ∧ (asked (liveF none Bank.clear) .redirectedWrite up).engine = none
    ∧ (∃ k ∈ (unsettled .gtu).engine, k.begun = false ∧ k.phase = .checking
        ∧ ((unsettled .gtu).win k.window).cfg.kind = .flip ∧ ((unsettled .gtu).win k.window).cfg.guardOp ≠ .none)
    ∧ ((unsettled .gtu).down.without 3).table = [] ∧ ((another (unsettled .gtu)).down.without 3).table ≠ []
    ∧ (∀ e ∈ (at' 250 (unsettled .gtu)).down.table, e.deadline = (at' 250 (unsettled .gtu)).timers.count) :=
  met (by decide +kernel)

theorem test_hyps_ForwardedAnswers_restarting :
    (∀ p ∈ [restarting (asked (liveF none Bank.clear) .redirectedWrite up)], p.Accounted)
    ∧ (let p := restarting (asked (liveF none Bank.clear) .redirectedWrite up)
       p.resetn = .high ∧ p.offerDue = false ∧ p.device ≠ .running ∧ p.engine = none
        ∧ ∀ e ∈ p.down.table, e.req.kind = .redirectedWrite ∧ e.expired = false ∧ e.req.origin = .upstream 5 1 0x1000) :=
  met (by decide +kernel)

/-- A part whose engine waits for a guard read of W0, at the deadline of that read. -/
def checkOf (c : WinConfig) (state : WinState) (o : Option Gen) (g : Gen) (b : Bank) : Part :=
  at' 250 (busy (asked { partOf (winOf { c with guardOp := .gtu } state o (some g)) with banks := Part.reset.banks.set 0 b }
    .guardRead .part) (work .checking 0 0 0 (some 3)))
def checking : Part := checkOf cfgS .live (some gen0) (genIn .checking [fullSlot]) Bank.clear

/-- The same of FLIP, with a stamp address, and with a write held for FLIP_WAIT. -/
def flipping : Part := checkOf { cfgF with stampPresent := true } .live (some gen0) (genIn .checking []) ⟨1, 0⟩
def flipHeld : Part := holding flipping [entry .flipWait 0x10040 (.view 1) 3]

theorem test_hyps_GuardReadAnswer :
    ((∀ p ∈ [checking, checkOf { cfgS with trigger := .strobe0 } .live (some pends) (genIn .checking [fullSlot]) Bank.clear,
          checkOf { cfgS with onReject := .reopen } .live (some twoSlots) (genIn .checking [fullSlot]) Bank.clear,
          checkOf cfgS .retiring none (genIn .checking [fullSlot]) Bank.clear, flipping, flipHeld,
          checkOf cfgF .live (some gen0) (genIn .checking []) ⟨1, 0⟩, checkOf cfgF .retiring none (genIn .checking []) ⟨1, 0⟩],
        p.Accounted)
      ∧ (∀ p ∈ [checking, flipping, flipHeld],
          p.Ready ∧ p.offerDue = false ∧ (∀ x ∈ p.hold, x.reason ≠ .space) ∧ p.queue = []
            ∧ (∀ e ∈ p.down.table, e.expired = false ∧ e.req.kind = .guardRead ∧ e.req.id = 3 ∧ e.deadline = p.timers.count)
            ∧ p.engine = some (work .checking 0 0 0 (some 3)))
      ∧ ((checking.win 0).pubGen = some (genIn .checking [fullSlot]) ∧ (genIn .checking [fullSlot]).operand = some 5
        ∧ (genIn .checking [fullSlot]).slots ≠ [] ∧ (checking.win 0).cfg.kind = .staged
        ∧ (checking.win 0).cfg.onReject = .discard ∧ (checking.win 0).state = .live ∧ gen0.closePending = false
        ∧ pends.closePending = true ∧ checking.hold = []))
    ∧ ((flipping.win 0).cfg.kind = .flip ∧ (flipping.win 0).state ≠ .off ∧ (flipping.win 0).cfg.stampPresent = true ∧ flipping.hold = []
      ∧ (flipping.win 0).haltPending = false ∧ cfgF.stampPresent = false ∧ flipHeld.hold = [entry .flipWait 0x10040 (.view 1) 3]
      ∧ classify flipHeld.windows (wr 1 0x10040 1) = .flipProducerWrite 0 1 ∧ (flipHeld.win 0).state = .live
      ∧ MasterSet.has gen0.arrived 1 = false ∧ (∃ i < 64, byteAt (carriedBytes (wr 1 0x10040 1)) i ≠ none)
      ∧ LineMap.has (flipHeld.bank 0).dirty 1 = false ∧ flipHeld.carrying 0 1 = false
      ∧ (flipping.bank 0).carry ||| (flipping.bank 0).dirty ≠ 0)
    ∧ GuardHolds (checking.win 0).cfg.guardOp (wordAt (checking.win 0).cfg.guardAddr 6) 5
    ∧ ¬GuardHolds (checking.win 0).cfg.guardOp (wordAt (checking.win 0).cfg.guardAddr 5) 5 :=
  ⟨met (by decide +kernel), by decide +kernel,
    show (wordAt 0 5).toNat < (wordAt 0 6).toNat by decide, show ¬((5 : BitVec 32).toNat < (wordAt 0 5).toNat) by decide⟩

/-- What a rejection of that generation leaves of the part, with the OPEN generation it leaves. -/
def rejectedTo (p : Part) (m : Gen) : Part :=
  ({ p with engine := none, down := p.down.without 3 } : Part).setWin 0 { p.win 0 with pubGen := none, openGen := some m }

/-- A close of W0 that pends behind the generation checked: of either kind, in a LIVE or a RETIRING window. -/
def pendingCheck (c : WinConfig) (state : WinState) (trigger : Trigger) : Part :=
  checkOf { c with trigger := trigger } state (some pends)
    (genIn .checking (match c.kind with | .staged => [fullSlot] | .flip => [])) ⟨1, 0⟩
def cfgR : WinConfig := { cfgS with onReject := .reopen }
abbrev PendingMet (p : Part) (state : WinState) : Prop :=
  p.Ready ∧ p.offerDue = false ∧ p.hold = [] ∧ p.queue = [] ∧ p.engine = some (work .checking 0 0 0 (some 3))
    ∧ (p.win 0).state = state ∧ (p.win 0).openGen = some pends ∧ pends.closePending = true
    ∧ ∀ e ∈ p.down.table, e.expired = false ∧ e.req.kind = .guardRead ∧ e.req.id = 3 ∧ e.deadline = p.timers.count

theorem test_hyps_GuardReadAnswer_pending :
    (∀ p ∈ [pendingCheck cfgS .live .immediate, pendingCheck cfgR .live .immediate, pendingCheck cfgF .live .immediate,
        pendingCheck cfgS .retiring .immediate, pendingCheck cfgR .retiring .strobe0, pendingCheck cfgF .retiring .strobe0],
        p.Accounted)
    ∧ ∀ c ∈ [cfgS, cfgR, cfgF], ∀ state ∈ [WinState.live, .retiring],
        PendingMet (pendingCheck c state .immediate) state ∧ PendingMet (pendingCheck c state .strobe0) state
        ∧ ((rejectedTo (pendingCheck c state .immediate) pends).closing 0 pends pends.operand).queue = [0]
        ∧ ((rejectedTo (pendingCheck c state .strobe0) pends).closing 0 pends pends.operand).queue = [] :=
  met (by decide +kernel)

/-- What the engine's take of the generation then closed meets: its guard read can be placed, or a redirected write of the FLIP
window is left. -/
def leftAt (c : WinConfig) : Part :=
  (rejectedTo { asked (pendingCheck c .live .immediate) .redirectedWrite up with nextId := 5 } pends).closing 0 pends
    pends.operand
def stillLeft (c : WinConfig) : Part :=
  let p := leftAt c
  { p with down := (asked p .redirectedWrite up).down }

theorem test_hyps_TakesHead : (∃ g ∈ ((leftAt cfgF).win 0).pubGen, g.state = .closed)
    ∧ (∃ g ∈ ((leftAt cfgS).win 0).pubGen, g.state = .closed)
    ∧ ((leftAt cfgF).win 0).cfg.guardOp ≠ .none ∧ ((leftAt cfgF).win 0).cfg.kind = .flip
    ∧ ((leftAt cfgS).win 0).cfg.kind = .staged ∧ (leftAt cfgF).down.forwarded = [] ∧ (leftAt cfgF).down.table = []
    ∧ ∃ x ∈ (stillLeft cfgF).down.table, x.expired = false ∧ x.req.kind = .redirectedWrite ∧ x.req.window = some 0 := by
  decide +kernel

/-- The guard read no longer the engine's work: abandoned at a RESTART, or of a generation discarded. -/
def abandoned : Part := { checking with engine := none }

theorem test_hyps_GuardReadAnswer_abandoned : (∀ p ∈ [abandoned, restarting abandoned], p.Accounted)
    ∧ (∀ p ∈ [abandoned, restarting abandoned], p.resetn = .high ∧ p.offerDue = false ∧ p.engine = none
        ∧ (p.device = .running → p.queue = [])
        ∧ ∀ e ∈ p.down.table, e.expired = false ∧ e.req.kind = .guardRead ∧ e.deadline = p.timers.count) :=
  met (by decide +kernel)

/-- The same with no stamp address, whose flip is released at once. -/
theorem test_hyps_GuardReadAnswer_released :
    (∀ p ∈ [checkOf cfgF .live (some gen0) (genIn .checking []) ⟨1, 0⟩, checkOf cfgF .retiring none (genIn .checking []) Bank.clear],
        p.Accounted)
    ∧ (∀ p ∈ [checkOf cfgF .live (some gen0) (genIn .checking []) ⟨1, 0⟩, checkOf cfgF .retiring none (genIn .checking []) Bank.clear],
        p.Ready ∧ p.queue = [] ∧ p.hold = [] ∧ (p.win 0).cfg.stampPresent = false ∧ (p.win 0).haltPending = false
        ∧ (p.win 0).cfg.kind = .flip ∧ (p.win 0).pubGen = some (genIn .checking []))
    ∧ (let p := checkOf cfgF .retiring none (genIn .checking []) Bank.clear
       (p.bank 0).carry ||| (p.bank 0).dirty = 0 ∧ (p.flipped 0 (genIn .checking [])).carryMap 0 = 0) :=
  met (by decide +kernel)

/-- The check of W0 is the engine's work, its guard read outstanding or not yet issued; and a CLOSED generation in the queue of an
idle engine. -/
def checkWaits : Part := { checking with down := { Down.reset with publish := checking.down.table.map Entry.req } }
def closedQueued : Part := { liveS gen0 (some (genIn .closed [])) with queue := [0] }

theorem test_hyps_DisableByWindowState_checking : (∀ p ∈ [checking, checkWaits, closedQueued], p.Accounted)
    ∧ (∀ p ∈ [checking, checkWaits, closedQueued], p.Ready ∧ p.offerDue = false ∧ p.hold = [] ∧ (p.win 0).state = .live
        ∧ (p.win 0).pubUnseen = true ∧ (p.unchecked 0).engine = none ∧ (∀ x ∈ p.queue, x = 0)
        ∧ (p.win 0).cfg.kind = .staged ∧ (p.win 0).haltPending = false)
    ∧ checkWaits.down.publish ≠ [] ∧ (checkWaits.unchecked 0).down.publish = [] :=
  met (by decide +kernel)

/-- A part that drains one slot, its drain write at its deadline: the length of its drain list, a stamp address, how many
drain writes are issued, and how many have failed. -/
def drainOf (len issued failed : Nat) (stamp : Bool) : Part :=
  at' 250 (busy (asked (partOf (winOf { cfgS with stampPresent := stamp, stampAddr := 0x303C } .live (some gen0)
    (some (genIn .draining [fullSlot])))) .drainWrite .part) { work .draining issued 0 len none with failed := failed })
def draining (len : Nat) (stamp : Bool) : Part := drainOf len 1 0 stamp

/-- The same with no slot free and a request held for SPACE. -/
def drainHeld : Part := { holding (draining 2 true) [entry .space 0x1080 (.view 2) 3] with freeSlots := 0 }

theorem test_hyps_DrainWriteAnswer :
    ((∀ p ∈ [draining 2 true, draining 1 true, draining 1 false, drainOf 2 2 0 true, drainOf 3 2 1 true, drainOf 3 3 1 true, drainHeld],
        p.Accounted)
      ∧ (let p := draining 2 true
         p.Ready ∧ p.offerDue = false ∧ p.hold = [] ∧ p.queue = []
          ∧ (∀ e ∈ p.down.table, e.expired = false ∧ e.req.kind = .drainWrite ∧ e.req.line = 0x1000 ∧ e.deadline = p.timers.count)
          ∧ p.engine = some (work .draining 1 0 2 none) ∧ (p.win 0).pubGen = some (genIn .draining [fullSlot])
          ∧ (genIn .draining [fullSlot]).slotFor 0x1000 ≠ none ∧ ((genIn .draining [fullSlot]).slots.map Slot.line).Nodup
          ∧ (p.win 0).state = .live ∧ (p.win 0).haltPending = false ∧ (p.win 0).openGen = some gen0)
      ∧ (((draining 1 true).win 0).cfg.stampPresent = true ∧ ((draining 1 false).win 0).cfg.stampPresent = false
        ∧ ((draining 1 false).win 0).cfg.kind = .staged ∧ gen0.closePending = false)
      ∧ (∀ k ∈ (draining 1 true).engine, k.failed = 0 ∧ k.okay + 1 = k.drainLength ∧ k.issued = k.okay + 1)
      ∧ (∀ k ∈ (drainOf 2 2 0 true).engine, k.failed = 0 ∧ k.okay + 1 ≠ k.drainLength ∧ k.issued ≠ k.okay + 1)
      ∧ (∀ k ∈ (drainOf 3 2 1 true).engine, 0 < k.failed ∧ k.issued = k.okay + 1 + k.failed)
      ∧ (∀ k ∈ (drainOf 3 3 1 true).engine, 0 < k.failed ∧ k.issued ≠ k.okay + (k.failed + 1)))
    ∧ (({ drainHeld with
          down := (drainHeld.down.without 3).waitsEnded 0 0x1000, freeSlots := drainHeld.freeSlots + 1
          engine := some { work .draining 1 0 2 none with okay := 0 + 1 } } : Part).setWin 0
        { drainHeld.win 0 with pubGen := some (genIn .draining []) }).Offers (entry .space 0x1080 (.view 2) 3) gen0 :=
  ⟨met (by decide +kernel), offers_of (l := 2) (by decide +kernel)⟩

theorem test_hyps_DrainWriteAnswer_restarting :
    (∀ p ∈ [restarting (draining 2 true), restarting (draining 1 false), restarting (drainOf 3 2 1 true)], p.Accounted)
    ∧ (∀ p ∈ [restarting (draining 2 true), restarting (draining 1 false), restarting (drainOf 3 2 1 true)],
        p.resetn = .high ∧ p.device = .restarting ∧ p.offerDue = false ∧ p.hold = []
          ∧ (∀ e ∈ p.down.table, e.expired = false ∧ e.req.kind = .drainWrite ∧ e.deadline = p.timers.count)
          ∧ (p.win 0).pubGen = some (genIn .draining [fullSlot]) ∧ (p.win 0).state = .live ∧ (p.win 0).haltPending = false)
    ∧ ((restarting (draining 1 false)).win 0).cfg.stampPresent = false :=
  met (by decide +kernel)

/-- A part that waits for its stamp write, at its deadline: the OPEN generation, and how the window publishes. -/
def stampOf (o : Gen) (trigger : Trigger) : Part :=
  at' 250 (busy (asked (partOf (winOf { cfgS with trigger := trigger, guardOp := .eq } .live (some o) (some (genIn .stamping []))))
    .stampWrite .part) (work .stamping 2 2 2 none))
def stamping : Part := stampOf gen0 .immediate

/-- The part that a pending close of W0 leaves at the release of the generation before it. -/
def closedAt (trigger : Trigger) : Part :=
  let p := stampOf pends trigger
  ({ p with down := p.down.without 3 }.releasing (work .stamping 2 2 2 none) 2).closing 0 pends pends.operand

/-- The same with halt pending set. -/
def stampHalting (o : Gen) : Part := (stampOf o .immediate).updWin 0 fun win => { win with haltPending := true }

/-- The same of a RETIRING FLIP window without an OPEN generation, the carry map given. -/
def stampRetiring (carry : LineMap) : Part :=
  { (stampOf gen0 .immediate).updWin 0 fun win => { win with cfg := cfgF, state := .retiring, openGen := none } with
    banks := Part.reset.banks.set 0 ⟨0, carry⟩ }

/-- The same with a generation left OPEN by a RESTART, its close pending. -/
def stampLeft (carry : LineMap) : Part :=
  restarting ((stampRetiring carry).updWin 0 fun win => { win with openGen := some pends })

theorem test_hyps_StampWriteAnswer_restarting :
    (∀ p ∈ [restarting (stampOf pends .immediate), restarting (stampHalting pends), stampLeft 0, stampLeft 1], p.Accounted)
    ∧ (∀ p ∈ [restarting (stampOf pends .immediate), restarting (stampHalting pends), stampLeft 0, stampLeft 1],
        p.resetn = .high ∧ p.device = .restarting ∧ p.offerDue = false ∧ p.hold = [] ∧ (p.win 0).openGen = some pends
          ∧ p.engine = some (work .stamping 2 2 2 none) ∧ (p.win 0).pubGen = some (genIn .stamping [])
          ∧ ∀ e ∈ p.down.table, e.expired = false ∧ e.req.kind = .stampWrite ∧ e.deadline = p.timers.count)
    ∧ ((restarting (stampOf pends .immediate)).win 0).state = .live ∧ ((restarting (stampOf pends .immediate)).win 0).haltPending = false
    ∧ ((restarting (stampHalting pends)).win 0).haltPending = true
    ∧ (∀ l ∈ [stampLeft 0, stampLeft 1], (l.win 0).state = .retiring ∧ (l.win 0).haltPending = false)
    ∧ (stampLeft 0).carryMap 0 = 0 ∧ (stampLeft 1).carryMap 0 ≠ 0 :=
  met (by decide +kernel)

theorem test_hyps_StampWriteAnswer_states :
    (∀ p ∈ [stampHalting gen0, stampHalting pends, stampRetiring 0, stampRetiring 1], p.Accounted)
    ∧ (∀ o ∈ [gen0, pends], (stampHalting o).Ready ∧ ((stampHalting o).win 0).haltPending = true
        ∧ ((stampHalting o).win 0).openGen = some o ∧ ((stampHalting o).win 0).state = .live ∧ (stampHalting o).hold = [])
    ∧ (∀ p ∈ [stampRetiring 0, stampRetiring 1], p.Ready ∧ (p.win 0).haltPending = false ∧ (p.win 0).openGen = none
        ∧ (p.win 0).state = .retiring ∧ p.engine = some (work .stamping 2 2 2 none))
    ∧ (stampRetiring 0).carryMap 0 = 0 ∧ (stampRetiring 1).carryMap 0 ≠ 0 :=
  met (by decide +kernel)

theorem test_hyps_StampWriteAnswer : (∀ p ∈ [stamping, stampOf pends .immediate, stampOf pends .strobe0], p.Accounted)
    ∧ (∀ o ∈ [gen0, pends],
        let p := stampOf o .immediate
        p.Ready ∧ p.offerDue = false ∧ p.hold = [] ∧ p.queue = []
          ∧ (∀ e ∈ p.down.table, e.expired = false ∧ e.req.kind = .stampWrite ∧ e.deadline = p.timers.count)
          ∧ p.engine = some (work .stamping 2 2 2 none) ∧ (p.win 0).state = .live ∧ (p.win 0).openGen = some o
          ∧ (p.win 0).haltPending = false ∧ (p.win 0).cfg.kind = .staged ∧ (p.win 0).cfg.guardOp ≠ .none)
    ∧ gen0.closePending = false ∧ pends.closePending = true ∧ (closedAt .strobe0).queue = [] ∧ (closedAt .immediate).queue = [0]
    ∧ (∃ g ∈ ((closedAt .immediate).win 0).pubGen, g.state = .closed) :=
  met (by decide +kernel)

/-- A part with one carry in flight, of line 0, that waits for request 3, at its deadline, the carry map given. -/
def carryOf (k : DownKind) (carry : LineMap) : Part :=
  { at' 250 (asked (liveF none ⟨0, carry⟩) k .part) with carry := ⟨[0], [], [⟨0, 0, 3⟩]⟩ }
def carrying (k : DownKind) : Part := carryOf k 3
def carryHeld : Part :=
  { holding (carrying .carryWrite) [entry .carry 0x10000 (.view 0) 3] with carry := ⟨[0], [⟨0, 0, 3⟩], [⟨0, 0, 3⟩]⟩ }
def carryLast : Part := busy (carryOf .carryWrite 1) { work .draining 1 0 2 none with window := 1 }
def carryAgain : Part := (carrying .carryRead).updWin 0 fun win => { win with carryFailed := true }

/-- The same with a publishing generation, and with halt pending set, and of a HALTED and an OFF window. -/
def carryPub (state : GenState) : Part := (carrying .carryRead).updWin 0 fun win => { win with pubGen := some (genIn state []) }
def carryPending : Part := (carryPub .stamping).updWin 0 fun win => { win with haltPending := true }
def carryIn (state : WinState) : Part := (carrying .carryRead).updWin 0 fun win => { win with state := state, openGen := none }

/-- The last carry of a window with a generation that the emptied map makes eligible, and of a RETIRING window without one. -/
def carryJoins (k : Option Work) : Part :=
  { (carryOf .carryWrite 1).updWin 0 fun win =>
      { win with pubGen := some (genIn .closed []), cfg := { cfgF with guardOp := .eq } } with engine := k }
def carryRetires : Part := (carryOf .carryWrite 1).updWin 0 fun win => { win with state := .retiring, openGen := none }
def carryChecked : Part := busy (carryPub .checking) (work .checking 0 0 0 none)

abbrev CarryMet (p : Part) : Prop :=
  p.resetn = .high ∧ p.offerDue = false ∧ p.hold = [] ∧ (p.device = .running → p.queue = [])
    ∧ p.carry.inFlight.find? (fun x => x.request = 3) = some ⟨0, 0, 3⟩ ∧ (p.win 0).holdsBank = true
    ∧ (p.win 0).haltPending = false ∧ (p.win 0).carryFailed = false
    ∧ ∀ e ∈ p.down.table, e.expired = false ∧ e.req.id = 3 ∧ e.deadline = p.timers.count

theorem test_hyps_CarryAnswers_emptied :
    (∀ p ∈ [carryJoins none, carryJoins (some { work .draining 1 0 2 none with window := 1 }), carryRetires], p.Accounted)
    ∧ (∀ p ∈ [carryJoins none, carryJoins (some { work .draining 1 0 2 none with window := 1 }), carryRetires],
        CarryMet p ∧ LineMap.remove (p.bank 0).carry 0 = 0 ∧ p.device = .running)
    ∧ ((carryJoins none).win 0).cfg.trigger = .immediate ∧ ((carryJoins none).win 0).pubIn .closed = true
    ∧ ((carryJoins none).win 0).cfg.guardOp ≠ .none ∧ (carryRetires.win 0).state = .retiring
    ∧ (carryRetires.win 0).pubGen = none ∧ (carryRetires.win 0).openGen = none :=
  met (by decide +kernel)

theorem test_hyps_CarryAnswers_checking : (∀ p ∈ [carryChecked, restarting (carryPub .checking)], p.Accounted)
    ∧ (∀ p ∈ [carryChecked, restarting (carryPub .checking)], CarryMet p ∧ (p.win 0).pubGen = some (genIn .checking []))
    ∧ (∃ k ∈ carryChecked.engine, k.window = 0 ∧ k.phase = .checking) ∧ carryChecked.queue = []
    ∧ (restarting (carryPub .checking)).engine = none :=
  met (by decide +kernel)

theorem test_hyps_CarryAnswers_restarting :
    (∀ p ∈ [restarting (carrying .carryRead), restarting (carrying .carryWrite), restarting (carryJoins none), restarting carryRetires,
        restarting (carryPub .stamping)], p.Accounted)
    ∧ (∀ p ∈ [restarting (carrying .carryRead), restarting (carrying .carryWrite), restarting (carryJoins none), restarting carryRetires,
        restarting (carryPub .stamping)], CarryMet p ∧ p.device = .restarting) :=
  met (by decide +kernel)

theorem test_hyps_CarryAnswers_states :
    (∀ p ∈ [carryPub .closed, carryPub .stamping, carryPending, carryIn .halted, carryIn .off], p.Accounted)
    ∧ (∀ p ∈ [carryPub .closed, carryPub .stamping, carryPending, carryIn .halted, carryIn .off], p.Ready ∧ p.AtRest
        ∧ p.carry.inFlight.find? (fun x => x.request = 3) = some ⟨0, 0, 3⟩ ∧ p.hold = []
        ∧ ∀ e ∈ p.down.table, e.expired = false ∧ e.req.id = 3 ∧ e.req.kind = .carryRead)
    ∧ (∀ st ∈ [GenState.closed, .stamping], let p := carryPub st
        (p.win 0).pubGen = some (genIn st []) ∧ (genIn st []).state = st ∧ (p.win 0).state = .live ∧ p.engine = none
          ∧ (p.win 0).haltPending = false ∧ (p.win 0).carryFailed = false)
    ∧ ((carryPending.win 0).haltPending = true ∧ ((carryIn .halted).win 0).state = .halted ∧ ((carryIn .off).win 0).state = .off) :=
  met (by decide +kernel)

theorem test_hyps_CarryAnswers :
    (∀ p ∈ [carrying .carryWrite, carrying .carryRead, carryHeld, carryLast, carryAgain], p.Accounted)
    ∧ (∀ p ∈ [carrying .carryWrite, carrying .carryRead, carryHeld, carryLast, carryAgain],
        p.Ready ∧ p.AtRest ∧ (∀ x ∈ p.hold, x.reason ≠ .space)
          ∧ p.carry.inFlight.find? (fun x => x.request = 3) = some ⟨0, 0, 3⟩ ∧ (p.win 0).state = .live
          ∧ (p.win 0).holdsBank = true ∧ (p.win 0).haltPending = false ∧ (p.win 0).pubGen = none
          ∧ ∀ e ∈ p.down.table, e.expired = false ∧ e.req.id = 3 ∧ e.deadline = p.timers.count
              ∧ (e.req.kind = .carryRead ∨ e.req.kind = .carryWrite))
    ∧ (∀ e ∈ (carrying .carryRead).down.table, e.req.kind = .carryRead)
    ∧ (carrying .carryWrite).hold = [] ∧ LineMap.remove ((carrying .carryWrite).bank 0).carry 0 ≠ 0
    ∧ LineMap.remove (carryLast.bank 0).carry 0 = 0 ∧ carryLast.engine ≠ none
    ∧ (carryHeld.hold.filter fun x => x.window = 0 && x.reason = .carry && x.line = .view 0) = [entry .carry 0x10000 (.view 0) 3]
    ∧ classify carryHeld.windows (wr 1 0x10000 1) = .flipProducerWrite 0 0 ∧ (carryHeld.win 0).pubUnseen = false
    ∧ (∃ i < 64, byteAt (carriedBytes (wr 1 0x10000 1)) i ≠ none) ∧ MasterSet.has gen0.arrived 1 = false
    ∧ ((carrying .carryRead).win 0).carryFailed = false ∧ (carryAgain.win 0).carryFailed = true :=
  met (by decide +kernel)

/-- The part after the expiry of its outstanding requests. -/
def expired (p : Part) : Part :=
  { p with openCount := 0, down := { p.down with table := p.down.table.map fun e => { e with expired := true } } }

theorem test_hyps_ExpiredLateAndUnmatched :
    (∀ p ∈ [at' 250 (asked Part.reset .viewRead up), asked Part.reset .viewRead up, expired (asked Part.reset .viewRead up)],
      p.Accounted)
    ∧ ((expired (asked Part.reset .viewRead up)).resetn = .high
      ∧ (∃ e ∈ (expired (asked Part.reset .viewRead up)).down.table, e.req.id = 3 ∧ e.expired = true)
      ∧ (∀ e ∈ (asked Part.reset .viewRead up).down.table, e.req.id ≠ 4))
    ∧ (∀ e ∈ (at' 250 (asked Part.reset .viewRead up)).down.table, e.expired = false ∧ e.deadline = 250
        ∧ e.req.origin = up ∧ e.req.kind = .viewRead)
    ∧ (∀ e ∈ (asked Part.reset .viewRead up).down.table, e.deadline ≠ (asked Part.reset .viewRead up).timers.count) :=
  met (by decide +kernel)

theorem test_hyps_HoldExpiryAndTimebaseAdvance :
    (let p := at' 7 (holding (liveS arrived none) [held .close (some 0) 3 7])
     p.Ready ∧ p.AtRest ∧ p.hold.find? (fun e => e.deadline = p.timers.count) = some (held .close (some 0) 3 7)
      ∧ (p.win 0).openGen = some arrived ∧ 0 < arrived.remaining ∧ (∀ x ∈ p.hold, x.window = 0 → x.reason ≠ .fence))
    ∧ (let p := at' 7 (holding (liveS pends (some (genIn .stamping []))) [held .close (some 0) 3 7])
       p.Ready ∧ p.AtRest ∧ (p.win 0).openGen = some pends ∧ pends.remaining = 0)
    ∧ (let p := at' 7 (holding (liveS gen0 none) [held .space none 3 7])
       p.hold.find? (fun e => e.deadline = p.timers.count) = some (held .space none 3 7)
        ∧ (held .space none 3 7).reason ≠ .close)
    ∧ (∀ e ∈ (holding (liveS gen0 none) [held .space none 3 7]).hold, e.deadline ≠ 0)
    ∧ (let p := at' 0xFFFFFFFF (asked Part.reset .viewRead up)
       p.resetn = .high ∧ (∀ e ∈ p.hold, e.deadline ≠ p.timers.count)
        ∧ (∀ e ∈ p.down.table, e.expired = true ∨ e.deadline ≠ p.timers.count)) := by decide +kernel

/-- A part whose window W0 is bound to STB0, the engine busy with another window. -/
def bound (g : Gen) : Part :=
  busy (partOf (winOf { cfgS with trigger := .strobe0 } .live (some gen0) (some g))) { work .draining 1 0 2 none with window := 1 }

theorem test_hyps_StrobeSamples : (bound (genIn .closed [])).resetn = .high
    ∧ ((bound (genIn .closed [])).strobe .stb0).last ≠ .high ∧ ((bound (genIn .closed [])).strobe .stb0).polarity = .rising
    ∧ (bound (genIn .closed [])).device = .running ∧ (bound (genIn .closed [])).engine ≠ none
    ∧ (bound (genIn .closed [])).offerDue = false
    ∧ allWindows.filter ((bound (genIn .closed [])).joinsAtEdge .stb0) = [0]
    ∧ allWindows.filter ((bound (genIn .checking [])).lateAtEdge .stb0) = [0]
    ∧ ({ bound (genIn .closed []) with device := .restarting } : Part).device = .restarting := by decide +kernel

/-- A part whose window W0, of a configuration, waits in the publish queue with a slot list. -/
def queueOf (c : WinConfig) (slots : List Slot) : Part :=
  { partOf (winOf c .live (some gen0) (some (genIn .closed slots))) with
    queue := [0], banks := Part.reset.banks.set 0 ⟨1, 0⟩ }
def queued : Part := queueOf { cfgS with guardOp := .eq, guardAddr := 0x4004 } [fullSlot]
def queuedLeft : Part := asked (queueOf cfgF []) .redirectedWrite up
def queuedFlip : Part := queueOf { cfgF with stampPresent := true } []

/-- A part with carry work, and one with a request that waits. -/
def carryWork : Part := { liveF none ⟨0, 3⟩ with carry := ⟨[0], [], []⟩ }
def carryDemand : Part := { holding carryWork [entry .carry 0x10040 (.view 1) 4] with carry := ⟨[0], [⟨0, 1, 4⟩], []⟩ }
def waiting : Part := Part.reset.takenOpen.placePass (rd 1 0x9000 1)

theorem test_hyps_PartsOwnSteps :
    ((∀ p ∈ [queued, queuedLeft, queuedFlip, queueOf cfgS [fullSlot], queueOf { cfgS with stampPresent := true } [], carryWork,
        carryDemand, waiting, Part.reset], p.Accounted)
    ∧ (∀ p ∈ [queued, queuedLeft, queuedFlip, queueOf cfgS [fullSlot]],
        p.Ready ∧ p.engine = none ∧ p.offerDue = false ∧ p.queue = 0 :: [] ∧ (∃ g ∈ (p.win 0).pubGen, g.state = .closed))
    ∧ ((queued.win 0).cfg.kind = .staged ∧ (queued.win 0).cfg.guardOp ≠ .none ∧ cfgS.guardOp = .none
      ∧ (genIn .closed [fullSlot]).slots ≠ [] ∧ (genIn .closed []).slots = [])
    ∧ ((queuedLeft.win 0).cfg.kind = .flip ∧ (∀ e ∈ queuedLeft.down.table,
        e.expired = false ∧ e.req.kind = .redirectedWrite ∧ e.req.window = some 0))
    ∧ ((queuedFlip.win 0).cfg.kind = .flip ∧ (queuedFlip.win 0).state ≠ .off ∧ queuedFlip.down.requests = [] ∧ (queuedFlip.win 0).cfg.guardOp = .none
      ∧ (queuedFlip.win 0).cfg.stampPresent = true ∧ queuedFlip.hold = [] ∧ Part.reset.queue = [])
    ∧ (∀ p ∈ [carryWork, carryDemand], p.Ready ∧ p.carry.inFlight.length < 4) ∧ waiting.Ready)
    ∧ (carryWork.CarryChoice 0 0 ∧ carryDemand.CarryChoice 0 1 ∧ ∀ w l, ¬Part.reset.CarryChoice w l)
    ∧ (∃ r, waiting.down.Choice r) ∧ ∀ r, ¬Part.reset.down.Choice r :=
  ⟨met (by decide +kernel),
    ⟨(nextCarry_iff ..).mp (by decide +kernel), (nextCarry_iff ..).mp (by decide +kernel),
      (nextCarry_none _).mp (by decide +kernel)⟩,
    choice_of_some (by decide +kernel), (grantee_none _).mp (by decide +kernel)⟩

/-! ## The statements' hypotheses are met: the laws -/

/-- The first of two arrivals counted, and its hold entry. -/
def half : Gen := { two with remaining := 1, arrived := 2, slots := [fullSlot] }
def closeHeld : HoldEntry := { held .close (some 0) 3 1000 with req := wr 1 0x2000 1, line := .commit }

/-- A part at work: the LIVE window W0 has a slot and an arrival held for CLOSE; the engine drains its publishing
generation, whose one drain write is outstanding. -/
def working : Part :=
  { holding (busy (asked (partOf (winOf { cfgS with expected := 2, producers := 6 } .live (some half)
      (some (genIn .draining [fullSlot])))) .drainWrite .part) (work .draining 1 0 1 none)) [closeHeld] with freeSlots := 510 }

theorem gensRight_of (p : Part)
    (h : ∀ w, ((p.win w).state = .live → (p.win w).openGen ≠ none)
      ∧ ((p.win w).state = .off ∨ (p.win w).state = .halted → (p.win w).openGen = none)
      ∧ (∀ g ∈ (p.win w).openGen, g.state = .opened) ∧ ∀ g ∈ (p.win w).pubGen, g.state ≠ .opened) : p.GensRight :=
  fun w => ⟨(h w).1, (h w).2.1, (h w).2.2.1, (h w).2.2.2⟩

theorem claimsApart_of (p : Part) (h : ∀ w : WinIdx, w ≠ 0 → (p.win w).state = .off) : p.ClaimsApart := by
  have none_of : ∀ (w : WinIdx) (line : Addr), (p.win w).lineAtAddr line ≠ none → w = 0 := by
    intro w line hn
    refine Decidable.byContradiction fun hw => hn ?_
    simp [Window.lineAtAddr, h w hw]
  intro line v w hv hw
  rw [none_of v line hv, none_of w line hw]

theorem publicationsRight_of (p : Part)
    (h : (∀ w, (p.win w).state = .off ∨ (p.win w).state = .halted → (p.win w).pubGen = none) ∧ p.queue.Nodup
      ∧ p.queue.length ≤ 16 ∧ (∀ w ∈ p.queue, (p.win w).pubIn .closed = true)
      ∧ (∀ w, (p.win w).pubIn .draining = true ∨ (p.win w).pubIn .stamping = true
          ∨ (p.win w).pubIn .checking = true ∧ p.device = .running → ∃ k ∈ p.engine, k.window = w)
      ∧ (∀ w, (p.win w).cfg.kind = .flip → (p.win w).pubIn .draining = false)
      ∧ (p.device = .running → ∀ w, ∀ g ∈ (p.win w).openGen, g.closePending = true → (p.win w).pubGen ≠ none)
      ∧ ∀ w, (p.win w).haltPending = true → (p.win w).pubIn .stamping = true) : p.PublicationsRight :=
  have ⟨down, nodup, length, queued, worked, flip, pending, halts⟩ := h
  { down, nodup, length, queued, worked, flip, pending, halts }

theorem storeRight_of (p : Part)
    (h : p.freeSlots + (allWindows.map fun w => (p.win w).holding).sum = Config.slots
      ∧ (∀ w, ∀ g ∈ (p.win w).openGen, (g.slots.map Slot.line).Nodup)
      ∧ (∀ w, ∀ g ∈ (p.win w).pubGen, (g.slots.map Slot.line).Nodup)
      ∧ (∀ w, (p.win w).cfg.kind = .flip → (p.win w).holding = 0)
      ∧ (∀ w, (p.win w).pubIn .stamping = true → slotCount (p.win w).pubGen = 0)
      ∧ (p.drainWork = none → p.down.drains = [])
      ∧ (∀ k ∈ p.drainWork, k.failed = 0 →
          (p.down.drains.map DownReq.line).Perm ((slotsOf (p.win k.window).pubGen).map Slot.line)
          ∧ k.drainLength = k.okay + slotCount (p.win k.window).pubGen ∧ k.okay < k.drainLength
          ∧ k.issued = k.okay + p.down.drainsOut)
      ∧ ∀ k ∈ p.drainWork, 0 < k.failed →
          p.down.drains.length = p.down.drainsOut ∧ 0 < p.down.drainsOut
          ∧ k.issued = k.okay + k.failed + p.down.drainsOut) : p.StoreRight :=
  have ⟨total, opened, publishing, flip, stamping, noDrain, draining, failing⟩ := h
  { total, opened, publishing, flip, stamping, noDrain, draining, failing }

theorem carryRight_of (p : Part)
    (h : (∀ v w, (p.win v).holdsBank = true → (p.win w).holdsBank = true → (p.win v).cfg.bank = (p.win w).cfg.bank → v = w)
      ∧ (∀ w, (p.win w).state = .halted → p.carryMap w = 0) ∧ p.carry.order.Nodup
      ∧ (∀ w, w ∈ p.carry.order ↔ p.carryMap w ≠ 0) ∧ p.carry.order.length ≤ 4
      ∧ p.carry.demand.Perm (p.hold.filterMap HoldEntry.demand) ∧ p.carry.inFlight = []
      ∧ ∀ w, w ∈ p.queue ∨ (p.win w).pubIn .checking = true → p.carryMap w = 0) : p.CarryRight :=
  have ⟨banks, halted, nodup, order, length, demand, idle, eligible⟩ := h
  { banks, halted, nodup, order, length, demand, eligible
    apart := idle ▸ List.Pairwise.nil, inFlight := fun _ mem => absurd (idle ▸ mem) List.not_mem_nil }

theorem barrierRight_of (p : Part)
    (h : (∀ w, (p.win w).state ≠ .off → 1 ≤ (p.win w).cfg.expected)
      ∧ (∀ w, ∀ g ∈ (p.win w).openGen, 1 ≤ g.creation
          ∧ (0 < g.remaining → g.remaining + MasterSet.size g.arrived = g.creation)
          ∧ (g.remaining = 0 ↔ g.closePending = true))
      ∧ (∀ e ∈ p.hold, e.req.op = .write ∧ (p.win e.window).lineAtAddr (lineOf e.req.addr) = some e.line
          ∧ ((p.win e.window).state = .live ∨ (p.win e.window).state = .retiring ∧ e.reason = .close)
          ∧ (e.reason = .close → e.line = .commit)
          ∧ (e.line = .commit → (e.reason = .close ∨ e.reason = .fence) ∧ e.req.beats = 1 ∧ beatOf e.req.addr = 0))
      ∧ (∀ e ∈ p.hold, e.reason = .close → ∃ g ∈ (p.win e.window).openGen, e.gen = some g.number
          ∧ MasterSet.has g.arrived e.req.master = true)
      ∧ p.hold.Pairwise fun a b =>
          ¬(a.reason = .close ∧ b.reason = .close ∧ a.window = b.window ∧ a.req.master = b.req.master)) : p.BarrierRight :=
  have ⟨expected, gens, held, closing, once⟩ := h
  { expected, held, closing, once, gens := fun w g mem => ⟨(gens w g mem).1, (gens w g mem).2.1, (gens w g mem).2.2⟩ }

theorem working_withinLimits : working.WithinLimits := by constructor <;> decide +kernel

theorem working_lawful : working.Lawful :=
  { limits := working_withinLimits
    lines := by unfold Part.LineLaw; decide +kernel
    accounted := accounted_of (by decide +kernel)
    gens := gensRight_of _ (by decide +kernel)
    engine := by
      have h : ∀ k ∈ working.engine, ∃ g ∈ (working.win k.window).pubGen, g.number = k.gen ∧ g.state = k.phase.genState := by
        decide +kernel
      exact h
    claims := claimsApart_of _ (by decide +kernel)
    publications := publicationsRight_of _ (by decide +kernel)
    store := storeRight_of _ (by decide +kernel)
    carry := carryRight_of _ (by decide +kernel)
    barrier := barrierRight_of _ (by decide +kernel) }

/-- A lawful state and a step from it: what StepKeepsTheTrafficLaws, StepKeepsGenerationsRight, StepKeepsTheEngineRight,
StepKeepsClaimsApart, StepKeepsThePublications, StepKeepsTheStore, StepKeepsTheCarryWork and StepKeepsTheBarrier ask for. -/
theorem test_hyps_StepKeeps : working.Lawful ∧ ∃ t, step ⟨[.getStatus], working⟩ = .next t := ⟨working_lawful, _, rfl⟩

theorem test_hyps_EveryTakenRequestIsAnsweredOnce : working.Accounted
    ∧ (∃ t, step ⟨[.coldReset], working⟩ = .next t) ∧ (∃ t, step ⟨[.drainWriteAnswer 3 (.okay [])], working⟩ = .next t)
    ∧ ∀ rest, ([.drainWriteAnswer 3 (.okay [])] : List Instr) ≠ .coldReset :: rest :=
  ⟨working_lawful.accounted, ⟨_, rfl⟩, ⟨_, rfl⟩, fun _ => nofun⟩

/-! ## One step of each command -/

theorem test_take_admits : ((after (.requestTake (wr 1 0x1008 1)) (liveS gen0 none)).win 0).holding = 1
    ∧ (after (.requestTake (wr 1 0x1008 1)) (liveS gen0 none)).freeSlots = 511 := by decide +kernel
theorem test_take_passes : (after (.requestTake (rd 5 0x9000 1)) Part.reset).down.table.length = 1 := by decide +kernel
theorem test_pass_answer :
    (after (.passThroughAnswer 3 (.okay [7])) (asked Part.reset .passRead up)).responses = [⟨5, 1, .okay, [7]⟩] := by
  decide +kernel
theorem test_view_answer :
    (after (.viewReadAnswer 3 .error) (asked Part.reset .viewRead up)).responses = [⟨5, 1, .error .memory, []⟩] := by
  decide +kernel
theorem test_redirected_answer :
    (after (.redirectedWriteAnswer 3 (.okay [])) (asked Part.reset .redirectedWrite up)).responses = [⟨5, 1, .okay, []⟩] := by
  decide +kernel
theorem test_guard_passes :
    ((after (.guardReadAnswer 3 (.okay [6])) checking).win 0).pubGen = some (genIn .draining [fullSlot]) := by decide +kernel
theorem test_guard_fails : ((after (.guardReadAnswer 3 (.okay [5])) checking).win 0).pubGen = none
    ∧ ((after (.guardReadAnswer 3 (.okay [5])) checking).win 0).rejectCount = 1 := by decide +kernel
theorem test_drain_answer : ((after (.drainWriteAnswer 3 (.okay [])) (draining 1 true)).win 0).pubGen
    = some (genIn .stamping []) := by decide +kernel
theorem test_drain_torn : ((after (.drainWriteAnswer 3 .error) (draining 2 true)).win 0).state = .halted := by decide +kernel
theorem test_stamp_answer : ((after (.stampWriteAnswer 3 (.okay [])) stamping).win 0).stampCount = 1
    ∧ (after (.stampWriteAnswer 3 (.okay [])) stamping).engine = none := by decide +kernel
theorem test_stamp_torn : ((after (.stampWriteAnswer 3 .error) stamping).win 0).state = .halted := by decide +kernel
theorem test_carry_read_answer :
    ((after (.carryReadAnswer 3 (.okay (List.replicate 8 1))) (carrying .carryRead)).down.table.map fun e => e.req.kind)
      = [.carryWrite, .carryRead] := by decide +kernel
theorem test_carry_write_answer :
    (after (.carryWriteAnswer 3 (.okay [])) (carrying .carryWrite)).carryMap 0 = 2 := by decide +kernel
theorem test_carry_fails_checking : ((after (.carryReadAnswer 3 .error) carryChecked).win 0).state = .halted
    ∧ (after (.carryReadAnswer 3 .error) carryChecked).engine = none := by decide +kernel
theorem test_discard_checking : (after (.disableDiscard 0) checkWaits).engine = none
    ∧ (after (.disableDiscard 0) checkWaits).down.publish = [] := by decide +kernel
theorem test_stamp_restarting : ((after (.stampWriteAnswer 3 (.okay [])) (restarting (stampOf pends .immediate))).win 0).stampCount = 1
    ∧ (after (.stampWriteAnswer 3 (.okay [])) (restarting (stampOf pends .immediate))).device = .running := by decide +kernel
theorem test_carry_restarting : (after (.carryReadAnswer 3 (.okay [])) (restarting (carrying .carryRead))).device = .restarting := by
  decide +kernel
theorem test_reopened_closes : ((after (.guardReadAnswer 3 .error) (pendingCheck cfgR .live .immediate)).win 0).pubGen.map Gen.state
    = some .checking := by decide +kernel
theorem test_late_answer :
    (after (.lateAnswer 3 .error) (expired (asked Part.reset .viewRead up))).down.table = [] := by decide +kernel
theorem test_unmatched_answer : after (.unmatchedAnswer 9 .error) Part.reset = Part.reset := by decide +kernel
theorem test_entry_expiry : ((after (.entryExpiry 3) (at' 250 (asked Part.reset .viewRead up))).down.table.map Entry.expired)
    = [true] := by decide +kernel
theorem test_hold_expiry_withdraws : ((after .holdExpiry (at' 7 (holding (liveS arrived none) [held .close (some 0) 3 7]))).win
    0).openGen = some { arrived with remaining := 2, arrived := 0 } := by decide +kernel
theorem test_timebase_wraps : (after .timebaseAdvance (at' 0xFFFFFFFF Part.reset)).timers.count = 0 := by decide +kernel
theorem test_strobe_edge : (after (.strobeEdge .stb0) (bound (genIn .closed []))).queue = [0] := by decide +kernel
theorem test_strobe_level : (after (.strobeLevelChange .stb0) { Part.reset with stb0 := ⟨.rising, .high⟩ }).stb0.last = .low := by
  decide +kernel
theorem test_engine_take : (after .engineTake queued).engine.map Work.phase = some .checking := by decide +kernel
theorem test_carry_begin : (after .carryBegin carryWork).carry.inFlight = [⟨0, 0, 0⟩, ⟨0, 1, 1⟩] := by decide +kernel
/-- A redirected write of another window that waits keeps the carry of its line from beginning (R117, R110 order 3). -/
theorem test_carry_waits_behind_redirect :
    (after .carryBegin { carryWork with
      openCount := 1, nextId := 4
      down := { Down.reset with
        forwarded := [⟨3, .redirectedWrite, 0x30000, 0, 1, [], up, some 7, none, none, ReadPart.plain, 0⟩]
        table := [⟨⟨2, .passRead, 0x30000, 0, 1, [], up, none, none, none, ReadPart.plain, 0⟩, 250, false⟩] } }).carry.inFlight
      = [⟨0, 1, 4⟩] := by decide +kernel
theorem test_grant : (after .downstreamGrant waiting).down.table.length = 1 := by decide +kernel
theorem test_get_status : (after .getStatus Part.reset).link.map (fun f => f.results.take 3) = some [0, 2, 0] := by decide +kernel
theorem test_read_window : (after (.readWindow 0) Part.reset).link.map (fun f => f.results.length) = some 62 := by decide +kernel
theorem test_window_config : (after (.windowConfig 0 cfgF.toBlock) Part.reset).windows[0].cfg = cfgF := by decide +kernel
theorem test_window_adjust :
    ((after (.windowAdjust 0 6 2 512 1 7 1) (liveS gen0 none)).win 0).cfg
      = { cfgS with producers := 6, expected := 2, quota := 512, policy := .wait, priority := 7, target := 1 } := by
  decide +kernel
theorem test_enable : ((after (.enable 0) (partOf (winOf cfgF .off none none))).win 0).state = .live
    ∧ (after (.enable 0) (partOf (winOf cfgF .off none none))).carryMap 0 = 15 := by decide +kernel
theorem test_disable_drain : ((after (.disableDrain 0 0) (liveS gen0 none)).win 0).state = .off := by decide +kernel
theorem test_disable_discard : (after (.disableDiscard 0) { liveS (genIn .opened [fullSlot]) none with freeSlots := 511 }).freeSlots = 512 := by
  decide +kernel
theorem test_close : (((after (.close 0 9) (liveS gen0 (some (genIn .closed [])))).win 0).openGen.map Gen.closePending)
    = some true := by decide +kernel
theorem test_drop_open : ((after (.dropOpen 0) (liveS (genIn .opened [fullSlot]) none)).win 0).holding = 0 := by decide +kernel
/-- A RETIRING window is BAD_STATE to DROP_OPEN, of either kind (R163). -/
theorem test_drop_open_retiring :
    (after (.dropOpen 0) (partOf (winOf cfgF .retiring none (some (genIn .stamping []))))).link
      = some ⟨0x15, .badState, [], none, 0⟩ := by decide +kernel
theorem test_clear_fault : (((after (.clearFault 0) (partOf (winOf cfgF .halted none none))).win 0).openGen.map Gen.number)
    = some 1 := by decide +kernel
theorem test_set_stamp : ((after (.setStamp 0 77) Part.reset).win 0).stampCount = 77 := by decide +kernel
theorem test_set_floor : (after (.setFloor 1 7) Part.reset).notify.floor1 = 7 := by decide +kernel
theorem test_take_event :
    (after (.takeEvent 1) { Part.reset with
      notify := { Notify.reset with events := [ev .restarted 3, ev .windowOff 5, ev .windowOff 5] } }).link.map Frame.chosen
      = some (some 1) := by decide +kernel
theorem test_shifted_out :
    (after .eventRecordShiftedOut { Part.reset with
      link := some (frame (some 0)), notify := { Notify.reset with events := [ev .windowOff 5] } }).notify.events = [] := by
  decide +kernel
theorem test_set_device_events : (after (.setDeviceEvents 3 1) Part.reset).notify.devPriority = 3 := by decide +kernel
theorem test_set_strobe : (after (.setStrobe 1 1) Part.reset).stb1 = ⟨.falling, .low⟩ := by decide +kernel
theorem test_set_timers : (after (.setTimers 250 9 8) Part.reset).timers = ⟨0, 250, 100, 9, 8⟩ := by decide +kernel
theorem test_restart : (after .restart (draining 2 true)).device = .restarting := by decide +kernel
theorem test_unknown : (after (.unknownCommand 0x7F) Part.reset).link.map (fun f => f.status.code) = some 0x80 := by
  decide +kernel
/-- Example 11.1: the frame of CLOSE(W10, 5A5AH), its bits clocked in; and the same frame with MSEL high before its last byte. -/
theorem test_frame_close : (State.reset.selectLow.clockBytes [0x14, 0x0A, 0x00, 0x00, 0x5A, 0x5A]).pending = [.close 0x0A 0x5A5A]
    ∧ (State.reset.selectLow.clockBytes [0x14, 0x0A, 0x00, 0x00, 0x5A]).pending = [] := by decide +kernel
/-- A cold reset cuts a frame, and MSEL is still low at the release: no bit is taken until MSEL has gone high and low. -/
theorem test_frame_cut :
    let cut := after (.resetnRelease .low .low) (after .coldReset (State.reset.selectLow.clockByte 0x12).part)
    ((⟨[], cut⟩ : State).selectLow.clockBytes [0x01]).pending = []
      ∧ ((⟨[], after .frameAborted cut⟩ : State).selectLow.clockBytes [0x01]).pending = [.getStatus] := by decide +kernel
/-- BAD_CODE and one result byte 01H on MDO: low before the first falling edge, then 80H, 01H, and low behind them. -/
theorem test_mdo : (List.range 19).map (fun n => (State.clockFalls n (st (answering none 0))).part.mdo)
    = [.low, .high] ++ List.replicate 14 .low ++ [.high, .low, .low] := by decide +kernel
theorem test_mdo_released : Part.reset.mdo = .highImpedance ∧ (after .coldReset (answering none 3)).mdo = .highImpedance
    ∧ (after .frameEnd (answering none 1)).mdo = .highImpedance ∧ (Part.reset.select).mdo = .low := by decide +kernel
/-- The rising edge behind a chosen record's last bit brings EVENT_RECORD_SHIFTED_OUT. -/
theorem test_record_out : ((st (answering (some 0) 16)).clockBit false).pending = [.eventRecordShiftedOut]
    ∧ ((st (answering (some 0) 15)).clockBit false).pending = [] := by decide +kernel
/-- WINDOW_ADJUST's fifteen argument bytes: masters 1 and 9, three arrivals, a quota of 258. -/
theorem test_frame_adjust : frameCommand [0x11, 4, 0x02, 0x02, 0, 0, 0, 0, 0, 0, 3, 1, 2, 1, 7, 0]
    = some (.windowAdjust 4 0x202 3 258 1 7 0) := by decide +kernel
theorem test_frame_aborted : after .frameAborted Part.reset = Part.reset := by decide +kernel
theorem test_frame_end : (after .frameEnd { Part.reset with link := some (frame none) }).link = none := by decide +kernel
theorem test_warm_reset : (after .warmResetCompletion { Part.reset with device := .restarting }).notify.events
    = [⟨.restarted, 7, 0, none⟩] := by decide +kernel
theorem test_cold_reset : (after .coldReset (draining 2 true)).resetn = .low := by decide +kernel
theorem test_release : (after (.resetnRelease .high .low) (after .coldReset Part.reset)).stb0.last = .high := by decide +kernel

end Sys2Proof.Tests
end

section
/-! SUPPORT. Taking a request in staged windows and past them: the command runs `Part.serve` on a part with one more request
open, and what is left of the event is either nothing or the ports. -/

namespace Sys2Proof.Machine.Serving

/-! ## REQUEST_TAKE -/

/-- A request that passes the port and the alignment goes to the classifier (R42, R147, R148). -/
theorem exec_requestTake {s : State} {r : Request} (up : s.part.resetn = .high) (take : s.part.CanTake r) :
    exec (.requestTake r) s = .next { s with
      part := (classify s.part.windows r).finish (s.part.takenOpen.serve (s.part.taken r)) } := by
  obtain ⟨room, aligned⟩ := take
  show execRequestTake r s = _
  rw [execRequestTake, State.onPart, whenUp_high up, Part.takeRequest, if_pos room, if_pos aligned]
  rfl

theorem serve_of_passThrough {p : Part} {t : Taken} (pass : classify p.windows t.req = .passThrough) :
    p.serve t = p.placePass t.req := by
  rw [Part.serve, Part.serveWith, pass]

/-- While the device is RESTARTING every request classified into a window is answered RETRY (R42 test 2). -/
theorem serve_of_restarting {p : Part} {t : Taken} (device : p.device = .restarting)
    (into : classify p.windows t.req ≠ .passThrough) : p.serve t = p.answer t.req .retry := by
  rw [Part.serve, Part.serveWith, device]
  split
  · next pass => exact absurd pass into
  · rfl

/-- While the device is RUNNING a request is served by its class (R42 tests 3 and 4). -/
theorem serve_of_running {p : Part} {t : Taken} (device : p.device = .running) :
    p.serve t = p.serveClass Part.carryOutClose t (classify p.windows t.req) := by
  rw [Part.serve, Part.serveWith, device]
  split
  · next pass => rw [pass]; rfl
  · rfl

/-- A request of class `c` taken by a RUNNING device is served by that class, and the class says how the event ends. -/
theorem exec_requestTake_class {s : State} {r : Request} {c : RequestClass} (ready : s.part.Ready)
    (take : s.part.CanTake r) (class_eq : classify s.part.windows r = c) :
    exec (.requestTake r) s = .next { s with
      part := c.finish (s.part.takenOpen.serveClass Part.carryOutClose (s.part.taken r) c) } := by
  obtain ⟨up, running⟩ := ready
  subst class_eq
  rw [exec_requestTake up take, serve_of_running (p := s.part.takenOpen) running]
  rfl

/-! ## Requests handed to the downstream port -/

theorem idsRight_takenOpen {p : Part} (a : p.Accounted) : p.takenOpen.IdsRight := ⟨a.ids, a.nextId⟩

/-- A FORWARDED request placed at the tail of its list, after which the ports go on, is handed on (R152, R155). -/
theorem handedOn_place {p : Part} (ids : p.IdsRight) {r : DownReq} (forwarded : r.kind.cls = .forwarded) :
    HandedOn p (p.place r).portEnd { r with id := p.nextId } := by
  obtain ⟨ids', placed⟩ := idsRight_place ids r
  have ports := afterPorts_portEnd (p.place r)
  refine ⟨rfl, ports.placed ids' placed, ?_⟩
  simpa only [Part.place, forwarded] using ports

/-- A pass-through request is a FORWARDED one, whatever it asks. -/
theorem handedOn_placePass {p : Part} (ids : p.IdsRight) (r : Request) : ∃ d : DownReq,
    HandedOn p (p.placePass r).portEnd d
      ∧ d.kind = (match r.op with | .read => .passRead | .write => .passWrite)
      ∧ d.line = lineOf r.addr ∧ d.first = beatOf r.addr ∧ d.beats = r.beats
      ∧ d.bytes = (match r.op with | .read => [] | .write => carriedBytes r)
      ∧ d.origin = .upstream r.master r.tag (lineOf r.addr) :=
  ⟨_, handedOn_place ids (by cases r.op <;> rfl), by cases r.op <;> rfl, rfl, rfl, rfl, by cases r.op <;> rfl, rfl⟩

/-- A view read of a STAGED window's line is handed on (R47, R52). -/
theorem handedOn_stagedView {p : Part} (a : p.Accounted) (r : Request) (w : WinIdx) (read : ReadPart) :
    HandedOn p.takenOpen (p.takenOpen.stagedView r w read).portEnd
      (p.viewReadOf r w (lineOf r.addr) (lineOf r.addr) read) :=
  handedOn_place (idsRight_takenOpen a) rfl

/-- Settles O27: the take places the pass-through request, and the event ends at the ports. -/
theorem passThroughTake : Obligations.PassThroughTake := by
  intro s r up take accounted pass
  obtain ⟨d, handed, fields⟩ := handedOn_placePass (idsRight_takenOpen accounted) r
  have taken := exec_requestTake up take
  rw [pass, serve_of_passThrough (p := s.part.takenOpen) (t := s.part.taken r) pass] at taken
  exact ⟨_, d, taken, handed, fields⟩

/-! ## Refusals -/

/-- An arrival of a master outside the producer set is refused, in every state of the window (R60). -/
theorem commitArrival_of_outside (close : Part → WinIdx → Part) {p : Part} {t : Taken} {w : WinIdx}
    (outside : MasterSet.has (p.win w).cfg.producers t.req.master = false) :
    p.commitArrival close t w = p.refuseWrite t.req w (p.win w).cfg.commitAddr := by
  simp [Part.commitArrival, outside]

/-- Settles O33: each class of a consumer's write leads to `Part.refuseWrite`; only an arrival's event goes on to the ports. -/
theorem consumerWriteRefused : Obligations.ConsumerWriteRefused := by
  intro s r w ready take refused
  refine ⟨fun l staged => exec_requestTake_class ready take staged, fun l flip => exec_requestTake_class ready take flip,
    fun arrival rest outside => ⟨_, exec_requestTake_class ready take arrival, ?_⟩⟩
  have refuses : s.part.takenOpen.serveClass Part.carryOutClose (s.part.taken r) (.commitArrival w)
      = refused (s.part.win w).cfg.commitAddr :=
    commitArrival_of_outside Part.carryOutClose (p := s.part.takenOpen) (t := s.part.taken r) outside
  rw [refuses]
  exact afterPorts_eventEnd (p := refused (s.part.win w).cfg.commitAddr) rest ready.2

/-! ## RESTARTING -/

/-- The ports never bring about the conditions of the warm reset completion (R167): the device, the idle engine, the carries in
flight and the entries that stand only add to what was there. -/
theorem settled_of_afterPorts {p q : Part} (ports : AfterPorts p q) (settled : q.Settled) : p.Settled := by
  have device := ports.device
  obtain ⟨begun, new, eq, table, -⟩ := ports
  have idle := settled.idle
  have inFlight := settled.inFlight
  rw [eq] at idle inFlight
  refine ⟨device.symm.trans settled.restarting, Option.map_eq_none_iff.mp idle, (List.append_eq_nil_iff.mp inFlight).1,
    fun e mem => ?_⟩
  · exact settled.ended e (table ▸ List.mem_append_left _ mem)

/-- An event whose part does not meet the conditions of the completion ends at the ports. -/
theorem afterPorts_of_afterEvent {p q : Part} (event : AfterEvent p q) (unsettled : ¬p.Settled) : AfterPorts p q := by
  obtain ⟨r, ports, -, rest⟩ := event
  exact rest (fun h => unsettled (settled_of_afterPorts ports h)) ▸ ports

/-- The event of a take ends at once, at the ports, or as an event that may reach the engines. -/
theorem finish_cases (c : RequestClass) (p : Part) : c.finish p = p ∨ c.finish p = p.portEnd ∨ c.finish p = p.eventEnd := by
  cases c <;> simp [RequestClass.finish]

/-- Whichever way a class ends the event of its take, in a RESTARTING device not yet settled only the ports go on. -/
theorem afterPorts_finish_of_restarting (c : RequestClass) {p : Part} (device : p.device = .restarting)
    (unsettled : ¬p.Settled) (offer : p.offerDue = false) : AfterPorts p (c.finish p) := by
  have noTake : p.device = .running → p.engine ≠ none ∨ p.queue = [] := by simp [device]
  rcases finish_cases c p with h | h | h <;> rw [h]
  · exact .refl p
  · exact afterPorts_portEnd p
  · exact afterPorts_of_afterEvent (afterEvent_eventEnd noTake offer) unsettled

/-- Settles O34: the request is answered in `Part.serve`'s second test, and no
way of ending the event goes beyond the ports while a RESTARTING device is not settled. -/
theorem retryWhileRestarting : Obligations.RetryWhileRestarting := by
  intro s r up device take into unsettled offer
  refine ⟨_, exec_requestTake up take, ?_⟩
  rw [serve_of_restarting (p := s.part.takenOpen) (t := s.part.taken r) device into]
  refine afterPorts_finish_of_restarting _ (p := s.part.answeredAtTake r .retry []) device (fun h => ?_) offer
  have := (restartSettled_iff s.part).mpr ⟨h.restarting, h.idle, h.inFlight, h.ended⟩
  rw [unsettled] at this
  cases this

end Sys2Proof.Machine.Serving
end

section
/-! SUPPORT. Reads of a STAGED window: what slots show of a line, and where a consumer's and a producer's read go. -/

namespace Sys2Proof.Machine.Serving

/-! ## Beats built from bytes -/

/-- Bit `i` of a beat put together from its first `n` bytes. -/
theorem getLsbD_foldl_bytes (f : Nat → Byte) (n i : Nat) :
    ((List.range n).foldl (fun acc j => acc ||| ((f j).setWidth 64 <<< (8 * j))) 0#64).getLsbD i
      = (decide (i < 8 * n) && decide (i < 64) && (f (i / 8)).getLsbD (i % 8)) := by
  induction n with
  | zero => simp
  | succ n ih =>
    rw [List.range_succ, List.foldl_append, List.foldl_cons, List.foldl_nil, BitVec.getLsbD_or, ih, BitVec.getLsbD_shiftLeft,
      BitVec.getLsbD_setWidth]
    rcases Nat.lt_trichotomy (i / 8) n with below | here | above
    · have h₁ : i < 8 * n := by omega
      have h₂ : i < 8 * (n + 1) := by omega
      simp [h₁, h₂]
    · have h₁ : ¬i < 8 * n := by omega
      have h₂ : i < 8 * (n + 1) := by omega
      have h₃ : i - 8 * n = i % 8 := by omega
      have h₄ : i % 8 < 64 := by omega
      simp [h₁, h₂, h₃, h₄, here]
    · have h₁ : ¬i < 8 * (n + 1) := by omega
      have h₂ : 8 ≤ i - 8 * n := by omega
      have h₃ : ¬i < 8 * n := by omega
      simp [h₁, h₃, BitVec.getLsbD_of_ge (f n) _ h₂]

/-- Byte `j` of the beat whose bytes are those of `f`. -/
theorem byte_beatOfBytes (f : Nat → Byte) {j : Nat} (h : j < 8) : (beatOfBytes f >>> (8 * j)).setWidth 8 = f j := by
  refine BitVec.eq_of_getLsbD_eq fun i hi => ?_
  have h₁ : 8 * j + i < 64 := by omega
  have h₂ : (8 * j + i) / 8 = j := by omega
  have h₃ : (8 * j + i) % 8 = i := by omega
  rw [BitVec.getLsbD_setWidth, BitVec.getLsbD_ushiftRight, beatOfBytes, getLsbD_foldl_bytes, h₂, h₃]
  simp [hi, h₁]

/-- The beats of a line show its bytes; a value is asked for no further than the beats reach. -/
theorem beatsShow_beatsOf {value shown : Nat → Byte} (first n : Nat)
    (same : ∀ i, i < 8 * (first + n) → value i = shown i) : BeatsShow (beatsOf value first n) first n shown := by
  refine ⟨by simp [beatsOf], fun k b found j hj => ?_⟩
  obtain ⟨hk, rfl⟩ : k < n ∧ beatOfBytes (fun j => value (8 * (first + k) + j)) = b := by
    obtain ⟨a, ha, rfl⟩ := Option.map_eq_some_iff.mp ((List.getElem?_map ..).symm.trans found)
    obtain ⟨hk, rfl⟩ := List.getElem?_eq_some_iff.mp ha
    simpa using hk
  rw [byte_beatOfBytes _ hj]
  exact same _ (by omega)

/-- A read answered from slot bytes shows them (R47, R52). -/
theorem beatsShow_readFrom (l : LineBytes) (r : Request) :
    BeatsShow (readFrom l r) (beatOf r.addr) r.beats fun i => (byteAt l i).getD 0 :=
  beatsShow_beatsOf _ _ fun _ _ => rfl

/-- The bytes of a slot, where there is one. -/
theorem byteAt_copy (x : Option Slot) (i : Nat) :
    byteAt ((x.map Slot.bytes).getD []) i = x.bind fun o => byteAt o.bytes i := by
  cases x <;> rfl

/-- An aligned read answered from two layers shows the upper slot's bytes, and the lower one's where it has none (R51). -/
theorem beatsShow_readFrom_layers (newer : Option Slot) (b : Slot) {r : Request} (aligned : alignedRequest r = true) :
    BeatsShow (readFrom (overlay ((newer.map Slot.bytes).getD []) b.bytes) r) (beatOf r.addr) r.beats
      fun i => ((newer.bind fun o => byteAt o.bytes i).or (byteAt b.bytes i)).getD 0 := by
  have fits : beatOf r.addr + r.beats ≤ 8 := by
    simp only [alignedRequest, Bool.and_eq_true, decide_eq_true_eq] at aligned
    exact aligned.2
  refine beatsShow_beatsOf _ _ fun i hi => ?_
  rw [byteAt_overlay, if_pos (by omega), byteAt_copy]

/-! ## The state of the publishing generation -/

theorem pubIn_iff (win : Window) (st : GenState) : win.pubIn st = true ↔ ∃ g, win.pubGen = some g ∧ g.state = st := by
  unfold Window.pubIn
  cases win.pubGen <;> simp

theorem pubUnseen_iff (win : Window) :
    win.pubUnseen = true ↔ ∃ g, win.pubGen = some g ∧ (g.state = .closed ∨ g.state = .checking) := by
  unfold Window.pubUnseen
  cases win.pubGen <;> simp

/-- A DRAINING generation is neither CLOSED nor CHECKING. -/
theorem pubUnseen_of_draining {win : Window} (draining : ∃ g, win.pubGen = some g ∧ g.state = .draining) :
    win.pubUnseen = false := by
  obtain ⟨g, pub, st⟩ := draining
  simp [Window.pubUnseen, pub, st]

/-! ## A consumer's read (Table 3.3) -/

/-- While the drain shows its slots, a slot for the line answers when it is full, and is waited for otherwise. -/
theorem consumerRead_of_slot {p : Part} {r : Request} {w : WinIdx} {x : Slot} (state : (p.win w).state ≠ .halted)
    (draining : (p.win w).pubIn .draining = true) (sound : drainFailing p.engine w = false)
    (slot : slotOf (p.win w).pubGen (lineOf r.addr) = some x) :
    p.consumerRead r w =
      if fullLine x.bytes then p.answerData r (readFrom x.bytes r)
      else p.stagedView r w ⟨true, false, none, none, true⟩ := by
  simp [Part.consumerRead, state, draining, sound, slot]

/-- In every other case the read goes to memory and waits for nothing. -/
theorem consumerRead_of_noSlot {p : Part} {r : Request} {w : WinIdx}
    (other : (p.win w).state = .halted ∨ (p.win w).pubIn .draining = false ∨ drainFailing p.engine w = true
      ∨ slotOf (p.win w).pubGen (lineOf r.addr) = none) :
    p.consumerRead r w = p.stagedView r w ⟨true, false, none, none, false⟩ := by
  unfold Part.consumerRead
  dsimp only
  split
  · next live slot =>
    simp only [Bool.and_eq_true, decide_eq_true_eq, Bool.not_eq_true'] at live
    obtain ⟨⟨up, draining⟩, sound⟩ := live
    rcases other with halted | still | failing | absent
    · exact absurd halted up
    · rw [draining] at still; cases still
    · rw [sound] at failing; cases failing
    · rw [slot] at absent; cases absent
  · rfl

/-- What a taken consumer read leaves. -/
theorem exec_stagedConsumerRead {s : State} {r : Request} {w : WinIdx} {l : Nat} (ready : s.part.Ready)
    (take : s.part.CanTake r) (consumer : classify s.part.windows r = .stagedConsumerRead w l) :
    exec (.requestTake r) s = .next { s with part := (s.part.takenOpen.consumerRead r w).portEnd } :=
  exec_requestTake_class ready take consumer

/-- A read answered at its take. -/
theorem afterPorts_answerData (p : Part) (r : Request) (data : List Beat) :
    AfterPorts (p.answeredAtTake r .okay data) (p.takenOpen.answerData r data).portEnd :=
  afterPorts_portEnd (p.answeredAtTake r .okay data)

/-- Settles O38, by the two outcomes of `Part.consumerRead`. -/
theorem stagedConsumerRead : Obligations.StagedConsumerRead := by
  intro s r w l ready take accounted consumer win line
  refine ⟨_, exec_stagedConsumerRead ready take consumer, fun g x state pub draining sound slot => ?_, fun other => ?_⟩
  · have slot' : slotOf win.pubGen line = some x := by rw [pub]; exact slot
    rw [consumerRead_of_slot (p := s.part.takenOpen) state ((pubIn_iff win _).mpr ⟨g, pub, draining⟩) sound slot']
    refine ⟨fun full => ⟨readFrom x.bytes r, ?_, beatsShow_readFrom x.bytes r⟩, fun partly => ?_⟩
    · rw [if_pos ((fullLine_iff _).mpr full)]
      exact afterPorts_answerData s.part r _
    · rw [if_neg fun full => partly ((fullLine_iff _).mp full)]
      exact handedOn_stagedView accounted r w _
  · have other' : win.state = .halted ∨ win.pubIn .draining = false ∨ drainFailing s.part.engine w = true
        ∨ slotOf win.pubGen line = none := by
      rcases other with halted | idle | failing | ⟨g, pub, still | absent⟩
      · exact .inl halted
      · exact .inr (.inl (by rw [Window.pubIn, idle]))
      · exact .inr (.inr (.inl failing))
      · exact .inr (.inl (by rw [Window.pubIn, pub]; exact decide_eq_false still))
      · exact .inr (.inr (.inr (by rw [pub]; exact absent)))
    rw [consumerRead_of_noSlot (p := s.part.takenOpen) other']
    exact handedOn_stagedView accounted r w _

/-! ## A producer's read (Table 3.4) -/

/-- The publishing generation counts as a producer's layer (R51): it is CLOSED or CHECKING, or DRAINING with the drain not
failing. -/
def LayerShows (p : Part) (w : WinIdx) : Prop :=
  (∃ g, (p.win w).pubGen = some g ∧ (g.state = .closed ∨ g.state = .checking))
    ∨ (∃ g, (p.win w).pubGen = some g ∧ g.state = .draining) ∧ drainFailing p.engine w = false

theorem layerShows_iff (p : Part) (w : WinIdx) :
    LayerShows p w ↔ ((p.win w).pubUnseen || ((p.win w).pubIn .draining && !drainFailing p.engine w)) = true := by
  rw [Bool.or_eq_true, Bool.and_eq_true, Bool.not_eq_true', pubUnseen_iff, pubIn_iff]
  rfl

/-- The layer under the OPEN slot, where the publishing generation counts. -/
theorem producerLayer_of_shows {p : Part} {w : WinIdx} (shows : LayerShows p w) (line : Addr) :
    p.producerLayer w line = slotOf (p.win w).pubGen line := by
  rw [Part.producerLayer, if_pos ((layerShows_iff p w).mp shows)]

theorem producerLayer_none {p : Part} {w : WinIdx} {line : Addr}
    (bare : LayerShows p w → slotOf (p.win w).pubGen line = none) : p.producerLayer w line = none := by
  by_cases shows : LayerShows p w
  · rw [producerLayer_of_shows shows, bare shows]
  · rw [Part.producerLayer, if_neg fun h => shows ((layerShows_iff p w).mpr h)]

section
variable {p : Part} {r : Request} {w : WinIdx}

/-- Neither generation has a slot for the line: all of it comes from memory. -/
theorem producerRead_of_none (newer : slotOf (p.win w).openGen (lineOf r.addr) = none)
    (older : p.producerLayer w (lineOf r.addr) = none) :
    p.producerRead r w = p.stagedView r w ⟨false, false, none, none, false⟩ := by
  simp only [Part.producerRead, newer, older, Option.map_none]

/-- A full slot of the OPEN generation hides every layer below it. -/
theorem producerRead_of_full {o : Slot} (newer : slotOf (p.win w).openGen (lineOf r.addr) = some o)
    (full : fullLine o.bytes = true) : p.producerRead r w = p.answerData r (readFrom o.bytes r) := by
  cases older : p.producerLayer w (lineOf r.addr) with
  | none => simp only [Part.producerRead, newer, older, Option.map_some, Option.map_none, full, if_true]
  | some b => simp only [Part.producerRead, newer, older, Option.map_some, Option.getD_some, full, if_true]

/-- A slot of the OPEN generation that is not full lies over memory alone. -/
theorem producerRead_of_open {o : Slot} (newer : slotOf (p.win w).openGen (lineOf r.addr) = some o)
    (partly : fullLine o.bytes = false) (older : p.producerLayer w (lineOf r.addr) = none) :
    p.producerRead r w = p.stagedView r w ⟨false, false, some o.bytes, none, false⟩ := by
  simp only [Part.producerRead, newer, older, Option.map_some, Option.map_none, partly, Bool.false_eq_true, if_false]

/-- The publishing generation's slot shows under the OPEN one, if any, that is not full. -/
theorem producerRead_of_layer {b : Slot} {copy : Option LineBytes}
    (newer : (slotOf (p.win w).openGen (lineOf r.addr)).map Slot.bytes = copy)
    (partly : ∀ o, slotOf (p.win w).openGen (lineOf r.addr) = some o → fullLine o.bytes = false)
    (older : p.producerLayer w (lineOf r.addr) = some b) :
    p.producerRead r w =
      if fullLine b.bytes then p.answerData r (readFrom (overlay (copy.getD []) b.bytes) r)
      else if (p.win w).pubUnseen then p.stagedView r w ⟨false, false, copy, some b.bytes, false⟩
      else p.stagedView r w ⟨false, false, copy, none, true⟩ := by
  have holes : fullLine (copy.getD []) = false := by
    subst newer
    cases opened : slotOf (p.win w).openGen (lineOf r.addr) with
    | none => decide
    | some o => exact partly o opened
  simp only [Part.producerRead, newer, older, Option.map_some, holes, Bool.false_eq_true, if_false]

end

/-- A producer's read of a window that is not HALTED is served by the layers, in HALTED as a consumer's (R8). -/
theorem stagedProducerRead_up {p : Part} {w : WinIdx} (on : (p.win w).state ≠ .off) (up : (p.win w).state ≠ .halted)
    (r : Request) : p.stagedProducerRead r w = p.producerRead r w := by
  unfold Part.stagedProducerRead
  split
  · exact absurd ‹_› on
  · rfl
  · rfl
  · exact absurd ‹_› up

theorem stagedProducerRead_halted {p : Part} {w : WinIdx} (halted : (p.win w).state = .halted) (r : Request) :
    p.stagedProducerRead r w = p.consumerRead r w := by
  simp only [Part.stagedProducerRead, halted]

/-- What a taken producer read leaves. -/
theorem exec_stagedProducerRead {s : State} {r : Request} {w : WinIdx} {l : Nat} (ready : s.part.Ready)
    (take : s.part.CanTake r) (producer : classify s.part.windows r = .stagedProducerRead w l) :
    exec (.requestTake r) s = .next { s with part := (s.part.takenOpen.stagedProducerRead r w).portEnd } :=
  exec_requestTake_class ready take producer

theorem not_full_iff (l : LineBytes) : (¬∀ i < 64, byteAt l i ≠ none) ↔ fullLine l = false := by
  rw [← fullLine_iff, Bool.not_eq_true]

/-- Settles O39, by the layers that `Part.producerRead` finds. -/
theorem stagedProducerRead : Obligations.StagedProducerRead := by
  intro s r w l ready take accounted producer win line full unseen draining newer older view shows
  have on : win.state ≠ .off := classify_on (by rw [producer]; rfl)
  refine ⟨_, exec_stagedProducerRead ready take producer, fun halted => ?_, fun up => ?_⟩
  · rw [stagedProducerRead_halted (p := s.part.takenOpen) halted, consumerRead_of_noSlot (p := s.part.takenOpen) (.inl halted)]
    exact handedOn_stagedView accounted r w _
  rw [stagedProducerRead_up (p := s.part.takenOpen) on up]
  have noLayer (bare : unseen ∨ draining → older = none) : s.part.takenOpen.producerLayer w line = none :=
    producerLayer_none (p := s.part.takenOpen) bare
  refine ⟨fun new bare => ?_, fun o new whole => ?_, fun o new partly bare => ?_, fun b old shown partly => ?_⟩
  · rw [producerRead_of_none (p := s.part.takenOpen) new (noLayer bare)]
    exact handedOn_stagedView accounted r w _
  · rw [producerRead_of_full (p := s.part.takenOpen) new ((fullLine_iff _).mpr whole)]
    exact ⟨_, afterPorts_answerData s.part r _, beatsShow_readFrom o.bytes r⟩
  · rw [producerRead_of_open (p := s.part.takenOpen) new ((not_full_iff _).mp partly) (noLayer bare)]
    exact handedOn_stagedView accounted r w _
  · have layer : s.part.takenOpen.producerLayer w line = some b :=
      (producerLayer_of_shows (p := s.part.takenOpen) shown line).trans old
    rw [producerRead_of_layer (p := s.part.takenOpen) (copy := newer.map Slot.bytes) rfl
      (fun o new => (not_full_iff _).mp (partly o new)) layer]
    refine ⟨fun whole => ?_, fun holes hidden => ?_, fun holes drains => ?_⟩
    · rw [if_pos ((fullLine_iff _).mpr whole)]
      exact ⟨_, afterPorts_answerData s.part r _, beatsShow_readFrom_layers newer b take.2⟩
    · have hides : (s.part.takenOpen.win w).pubUnseen = true := (pubUnseen_iff win).mpr hidden
      rw [if_neg fun h => holes ((fullLine_iff _).mp h), if_pos hides]
      exact handedOn_stagedView accounted r w _
    · have seen : (s.part.takenOpen.win w).pubUnseen = false := pubUnseen_of_draining (win := win) drains.1
      rw [if_neg fun h => holes ((fullLine_iff _).mp h), if_neg (Bool.eq_false_iff.mp seen)]
      exact handedOn_stagedView accounted r w _

end Sys2Proof.Machine.Serving
end

section
/-! SUPPORT. Memory's answers to forwarded requests: the entry an answer finds, what its end leaves, and the settle wait that
the end of a redirected write retests. -/

namespace Sys2Proof.Machine.Serving

/-! ## The entry an answer is for -/

/-- The identities of the entries are apart. -/
theorem table_apart {p : Part} (a : p.Accounted) : (p.down.table.map fun e => e.req.id).Nodup := by
  have all := a.ids
  rw [Down.requests, List.map_append, List.map_map] at all
  exact (List.nodup_append.mp all).2.1

/-- Two entries of one identity are one entry. -/
theorem eq_of_entry_id {l : List Entry} (apart : (l.map fun e => e.req.id).Nodup) {a b : Entry} (ha : a ∈ l) (hb : b ∈ l)
    (same : a.req.id = b.req.id) : a = b := by
  induction l with
  | nil => cases ha
  | cons x xs ih =>
    rw [List.map_cons, List.nodup_cons] at apart
    obtain ⟨fresh, rest⟩ := apart
    rcases List.mem_cons.mp ha with rfl | ha' <;> rcases List.mem_cons.mp hb with rfl | hb'
    · rfl
    · exact absurd (List.mem_map.mpr ⟨b, hb', same.symm⟩) fresh
    · exact absurd (List.mem_map.mpr ⟨a, ha', same⟩) fresh
    · exact ih rest ha' hb'

/-- An entry that a test passes is the one found under its identity. -/
theorem find_entry {p : Part} (a : p.Accounted) {e : Entry} (mem : e ∈ p.down.table) {test : Entry → Bool}
    (passes : test e = true) : p.down.table.find? (fun x => x.req.id = e.req.id && test x) = some e := by
  have hit : ∃ x ∈ p.down.table, (decide (x.req.id = e.req.id) && test x) = true := ⟨e, mem, by simp [passes]⟩
  obtain ⟨x, found⟩ := Option.isSome_iff_exists.mp (List.find?_isSome.mpr hit)
  have same : x.req.id = e.req.id := by
    have := List.find?_some found
    simp only [Bool.and_eq_true, decide_eq_true_eq] at this
    exact this.1
  rw [found, eq_of_entry_id (table_apart a) (List.mem_of_find?_eq_some found) mem same]

section
variable {s : State} {e : Entry}

/-- The answer to a request that is outstanding and not EXPIRED goes to its owner, the entry leaving first (R156). -/
theorem answered_of_entry {p : Part} (a : p.Accounted) (mem : e ∈ p.down.table) (live : e.expired = false)
    {kinds : DownKind → Bool} (kind : kinds e.req.kind = true) (own : Part → DownReq → Part) :
    p.answered kinds e.req.id own = own (p.dropEntry e.req.id) e.req := by
  rw [Part.answered, Part.entryFor, find_entry a mem (test := fun x => kinds x.req.kind) kind]
  simp [live]

theorem exec_passThroughAnswer (up : s.part.resetn = .high) (a : s.part.Accounted) (mem : e ∈ s.part.down.table)
    (live : e.expired = false) (kind : e.req.kind = .passRead ∨ e.req.kind = .passWrite) (m : MemAnswer) :
    exec (.passThroughAnswer e.req.id m) s = .next { s with
      part := ((s.part.dropEntry e.req.id).passEnds e.req m).portEnd } := by
  show execPassThroughAnswer e.req.id m s = _
  rw [execPassThroughAnswer, State.onPart, whenUp_high up, answered_of_entry a mem live (by simpa using kind)]

theorem exec_viewReadAnswer (up : s.part.resetn = .high) (a : s.part.Accounted) (mem : e ∈ s.part.down.table)
    (live : e.expired = false) (kind : e.req.kind = .viewRead) (m : MemAnswer) :
    exec (.viewReadAnswer e.req.id m) s = .next { s with
      part := ((s.part.dropEntry e.req.id).viewEnds e.req m).portEnd } := by
  show execViewReadAnswer e.req.id m s = _
  rw [execViewReadAnswer, State.onPart, whenUp_high up, answered_of_entry a mem live (by simpa using kind)]

theorem exec_redirectedWriteAnswer (up : s.part.resetn = .high) (a : s.part.Accounted) (mem : e ∈ s.part.down.table)
    (live : e.expired = false) (kind : e.req.kind = .redirectedWrite) (m : MemAnswer) :
    exec (.redirectedWriteAnswer e.req.id m) s = .next { s with
      part := ((s.part.dropEntry e.req.id).redirectedEnds e.req m).eventEnd } := by
  show execRedirectedWriteAnswer e.req.id m s = _
  rw [execRedirectedWriteAnswer, State.onPart, whenUp_high up, answered_of_entry a mem live (by simpa using kind)]

/-- The deadline of a redirected write: its entry stays, EXPIRED, and its request fails (R157). -/
theorem exec_entryExpiry_redirected (up : s.part.resetn = .high) (a : s.part.Accounted) (mem : e ∈ s.part.down.table)
    (live : e.expired = false) (kind : e.req.kind = .redirectedWrite) (due : e.deadline = s.part.timers.count) :
    exec (.entryExpiry e.req.id) s = .next { s with
      part := ((s.part.markExpired e.req.id).redirectedEnds e.req .error).eventEnd } := by
  show execEntryExpiry e.req.id s = _
  rw [execEntryExpiry, State.onPart, whenUp_high up, Part.entryExpiry,
    find_entry a mem (test := s.part.due) (by simp [Part.due, live, due])]
  simp only [Part.requestFails, kind]

end

/-! ## What the end of a forwarded request leaves -/

section
variable {r : DownReq} {m : MasterId} {t : Tag} {line : Addr}

/-- An answer with as many beats as the read asked for is passed on as it is. -/
theorem answerBeats_of_length {data : List Beat} {n : Nat} (length : data.length = n) : answerBeats n data = data := by
  subst length
  refine List.ext_getElem (by simp [answerBeats]) fun k hk hk' => ?_
  simp [answerBeats, hk']

/-- A pass-read ends with memory's beats (R43). -/
theorem passEnds_read (p : Part) (kind : r.kind = .passRead) (owner : r.origin = .upstream m t line) {data : List Beat}
    (length : data.length = r.beats) : p.passEnds r (.okay data) = p.respond m t .okay data := by
  simp only [Part.passEnds, owner, kind, DownKind.isWrite, Bool.false_eq_true, if_false, answerBeats_of_length length]

/-- A pass-write ends without data (R43). -/
theorem passEnds_write (p : Part) (kind : r.kind = .passWrite) (owner : r.origin = .upstream m t line) (data : List Beat) :
    p.passEnds r (.okay data) = p.respond m t .okay [] := by
  simp only [Part.passEnds, owner, kind, DownKind.isWrite, if_true]

theorem viewEnds_okay (p : Part) (owner : r.origin = .upstream m t line) (data : List Beat) :
    p.viewEnds r (.okay data) = p.respond m t .okay (viewBeats r data) := by
  simp only [Part.viewEnds, owner]

/-- ERROR is answered ERROR MEMORY, and MEMORY_ERROR is posted (R43, R53, R109). -/
theorem passEnds_error (p : Part) (owner : r.origin = .upstream m t line) :
    p.passEnds r .error = (p.respond m t (.error .memory) []).postDevice (.memoryError m line) := by
  simp only [Part.passEnds, Part.failForwarded, owner]

theorem viewEnds_error (p : Part) (owner : r.origin = .upstream m t line) :
    p.viewEnds r .error = (p.respond m t (.error .memory) []).postDevice (.memoryError m line) := by
  simp only [Part.viewEnds, Part.failForwarded, owner]

theorem redirectedEnds_okay (p : Part) (owner : r.origin = .upstream m t line) (data : List Beat) :
    p.redirectedEnds r (.okay data) = (p.respond m t .okay []).beginCheck := by
  simp only [Part.redirectedEnds, owner]

theorem redirectedEnds_error (p : Part) (owner : r.origin = .upstream m t line) :
    p.redirectedEnds r .error = ((p.respond m t (.error .memory) []).postDevice (.memoryError m line)).beginCheck := by
  simp only [Part.redirectedEnds, Part.failForwarded, owner]

/-- The beats of a view read: memory's, under the publishing copy, under the OPEN copy (R53). -/
theorem beatsShow_viewBeats (fits : r.first + r.beats ≤ 8) (data : List Beat) :
    BeatsShow (viewBeats r data) r.first r.beats fun i =>
      ((byteAt (r.read.openCopy.getD []) i).or (byteAt (r.read.pubCopy.getD []) i)).getD
        (((data[i / 8 - r.first]?.getD 0) >>> (8 * (i % 8))).setWidth 8) := by
  unfold viewBeats
  refine beatsShow_beatsOf r.first r.beats fun i hi => ?_
  rw [byteAt_overlay, if_pos (by omega)]
  rfl

end

/-! ## The settle wait of a FLIP check (R113) -/

/-- No check begins while the one that has not begun waits for a redirected write. -/
theorem beginCheck_of_waits {p : Part} (waits : ∀ k, p.engine = some k → k.begun = false → k.phase = .checking →
    (p.win k.window).cfg.kind = .flip ∧ p.down.redirectLeft k.window) : p.beginCheck = p := by
  unfold Part.beginCheck
  split
  · rfl
  · next k work =>
    refine if_neg fun ⟨phase, begun, free⟩ => ?_
    obtain ⟨flip, left⟩ := waits k work begun phase
    rcases free with staged | settled
    · rw [flip] at staged
      cases staged
    · exact (settled_iff p k.window).mp settled left

/-- The check that waited begins with its guard read (R78, R113). -/
theorem beginCheck_of_settled {p : Part} {k : Work} (work : p.engine = some k) (begun : k.begun = false)
    (phase : k.phase = .checking) (settled : ¬p.down.redirectLeft k.window)
    (guard : (p.win k.window).cfg.guardOp ≠ .none) :
    p.beginCheck = ({ p with engine := some { k with begun := true, guardRead := some p.nextId } } : Part).withPublish
      (p.guardReadOf k.window k.gen) := by
  unfold Part.beginCheck
  rw [work]
  dsimp only
  rw [if_pos ⟨phase, begun, .inr ((settled_iff p k.window).mpr settled)⟩, if_neg guard, Part.updWork, work]
  rfl

/-! ## The end of a redirected write -/

/-- What the end of a redirected write leaves, where the check goes on waiting (R113): `base` is the part when the settle wait is
retested, and the event goes on to the ports, or in a RESTARTING device to the completion (R167). -/
theorem afterEvent_beginCheck_of_waits {base : Part}
    (waits : ∀ k, base.engine = some k → k.begun = false → k.phase = .checking →
      (base.win k.window).cfg.kind = .flip ∧ base.down.redirectLeft k.window)
    (take : base.device = .running → base.engine ≠ none ∨ base.queue = []) (offer : base.offerDue = false) :
    AfterEvent base base.beginCheck.eventEnd := by
  rw [beginCheck_of_waits waits]
  exact afterEvent_eventEnd take offer

/-- What it leaves, where it was the last one the check waited for. -/
theorem afterEvent_beginCheck_of_settled {base : Part} {k : Work} (work : base.engine = some k) (begun : k.begun = false)
    (phase : k.phase = .checking) (settled : ¬base.down.redirectLeft k.window)
    (guard : (base.win k.window).cfg.guardOp ≠ .none) (offer : base.offerDue = false) :
    AfterEvent (({ base with engine := some { k with begun := true, guardRead := some base.nextId } } : Part).withPublish
      (base.guardReadOf k.window k.gen)) base.beginCheck.eventEnd := by
  rw [beginCheck_of_settled work begun phase settled guard]
  exact afterEvent_eventEnd (fun _ => .inl (Option.some_ne_none _)) offer

/-- The part at which the end of a redirected write that fails retests the settle wait. -/
def failedRedirect (p : Part) (id : Nat) (m : MasterId) (t : Tag) (line : Addr) (d : Down) : Part :=
  { p.endedFor id m t (.error .memory) [] with down := d, notify := p.notifiedError m line }

/-- A redirected write fails by memory's ERROR or at its deadline: but for its entry the two leave the same (R109, R157). -/
theorem exec_endsBadly {s : State} {e : Entry} {m : MasterId} {t : Tag} {line : Addr} (up : s.part.resetn = .high)
    (a : s.part.Accounted) (mem : e ∈ s.part.down.table) (live : e.expired = false) (kind : e.req.kind = .redirectedWrite)
    (owner : e.req.origin = .upstream m t line) {c : Instr} {d : Down}
    (bad : s.part.endsBadly e (.redirectedWriteAnswer e.req.id .error) c d) :
    exec c s = .next { s with part := (failedRedirect s.part e.req.id m t line d).beginCheck.eventEnd } := by
  rcases bad with ⟨rfl, rfl⟩ | ⟨rfl, due, rfl⟩
  · rw [exec_redirectedWriteAnswer up a mem live kind, redirectedEnds_error _ owner]
    rfl
  · rw [exec_entryExpiry_redirected up a mem live kind due, redirectedEnds_error _ owner]
    rfl

/-- Settles O42: each answer finds its entry, and what its owner leaves is the statement's part before the ports go on; for a
redirected write the settle wait is retested in between. -/
theorem forwardedAnswers : Obligations.ForwardedAnswers := by
  intro s e m t line up accounted mem live owner id ends fails
  have passFails (kind : e.req.kind = .passRead ∨ e.req.kind = .passWrite) : fails (.passThroughAnswer id .error) := by
    refine ⟨_, exec_passThroughAnswer up accounted mem live kind _, ?_⟩
    rw [passEnds_error _ owner]
    exact afterPorts_portEnd _
  refine ⟨fun kind => ⟨fun data length => ?_, passFails (.inl kind)⟩, fun kind => ⟨fun data => ?_, passFails (.inr kind)⟩,
    fun kind => ⟨fun fits data => ?_, ?_⟩, ?_⟩
  · refine ⟨_, exec_passThroughAnswer up accounted mem live (.inl kind) _, ?_⟩
    rw [passEnds_read _ kind owner length]
    exact afterPorts_portEnd _
  · refine ⟨_, exec_passThroughAnswer up accounted mem live (.inr kind) _, ?_⟩
    rw [passEnds_write _ kind owner]
    exact afterPorts_portEnd _
  · refine ⟨viewBeats e.req data, ⟨_, exec_viewReadAnswer up accounted mem live kind _, ?_⟩, beatsShow_viewBeats fits data⟩
    rw [viewEnds_okay _ owner]
    exact afterPorts_portEnd _
  · refine ⟨_, exec_viewReadAnswer up accounted mem live kind _, ?_⟩
    rw [viewEnds_error _ owner]
    exact afterPorts_portEnd _
  · intro kind offer take ended okay bad write waits placing last down
    have answered (data : List Beat) : exec (.redirectedWriteAnswer id (.okay data)) s
        = .next { s with part := (okay down).beginCheck.eventEnd } := by
      rw [exec_redirectedWriteAnswer up accounted mem live kind, redirectedEnds_okay _ owner]
      rfl
    have failed (c : Instr) (d : Down) (how : s.part.endsBadly e (.redirectedWriteAnswer id .error) c d) :
        exec c s = .next { s with part := (bad d).beginCheck.eventEnd } :=
      exec_endsBadly up accounted mem live kind owner how
    refine ⟨fun wait => ?_, fun k ⟨work, begun, phase, _, settled, guard⟩ => ?_,
      fun c d how => ⟨fun wait => ?_, fun k ⟨work, begun, phase, _, settled, guard⟩ => ?_⟩⟩
    · have event := afterEvent_beginCheck_of_waits (base := okay down) wait take offer
      exact ⟨fun data => ⟨_, answered data, event⟩, _, answered [], event⟩
    · exact ⟨_, answered [], afterEvent_beginCheck_of_settled (base := okay down) work begun phase settled guard offer⟩
    · exact ⟨_, failed c d how, afterEvent_beginCheck_of_waits (base := bad d) wait take offer⟩
    · exact ⟨_, failed c d how, afterEvent_beginCheck_of_settled (base := bad d) work begun phase settled guard offer⟩

end Sys2Proof.Machine.Serving
end

section
/-! SUPPORT. The strobe unit: SET_STROBE's answers, the samples of a line, and what an edge does while the engine is busy. -/

namespace Sys2Proof.Machine.Strobing

/-! ## SET_STROBE (R98) -/

section
variable {p q : Part} {code : Byte} {own : Part → Reply}

/-- A command without results that is carried out leaves its own part, its frame open (R160). -/
theorem takeCommand_of_ok (done : own p.endFrame = reply q .ok) :
    p.takeCommand code 0 own = q.openFrame code .ok [] none := by
  rw [Part.takeCommand, done]
  rfl

/-- A command answered BAD_ARG leaves the part as it was, but for the frame (R160). -/
theorem takeCommand_of_badArg (bad : own p.endFrame = reply q .badArg) :
    p.takeCommand code 0 own = p.framed code .badArg [] := by
  rw [Part.takeCommand, bad]
  rfl

/-- A command that waits for RUNNING is answered BUSY while the device is RESTARTING (R160). -/
theorem takeCommand_notBusy_of_restarting (device : p.device = .restarting) :
    p.takeCommand code 0 (notBusy own) = p.framed code .busy [] := by
  have busy : notBusy own p.endFrame = reply p.endFrame .busy := by simp only [notBusy, Part.endFrame_device, device]
  rw [Part.takeCommand, busy]
  rfl

end

theorem exec_setStrobe {s : State} (up : s.part.resetn = .high) (n a : Byte) :
    exec (.setStrobe n a) s = .next { s with part := s.part.takeCommand 0x23 0 (notBusy (Part.setPolarity n a)) } := by
  show execSetStrobe n a s = _
  rw [execSetStrobe, State.onPart, whenUp_high up]

/-- The polarity of the named line is set, and the frame answers OK. -/
theorem takeCommand_setPolarity {p : Part} {n a : Byte} (running : p.device = .running) (line : n.toNat ≤ 1)
    (polarity : a.toNat ≤ 1) :
    p.takeCommand 0x23 0 (notBusy (Part.setPolarity n a)) =
      (p.setStrobe (strobeLineOf n) { p.strobe (strobeLineOf n) with polarity := polarityOf a }).framed 0x23 .ok [] := by
  have done := (notBusy_running (p := p.endFrame) running (Part.setPolarity n a)).trans (if_pos ⟨line, polarity⟩)
  rw [takeCommand_of_ok done]
  cases strobeLineOf n <;> rfl

/-- A line or a polarity above 1 is BAD_ARG. -/
theorem takeCommand_setPolarity_of_badArg {p : Part} {n a : Byte} (running : p.device = .running)
    (bad : 1 < n.toNat ∨ 1 < a.toNat) :
    p.takeCommand 0x23 0 (notBusy (Part.setPolarity n a)) = p.framed 0x23 .badArg [] :=
  takeCommand_of_badArg ((notBusy_running (p := p.endFrame) running _).trans (if_neg (by omega)))

/-! ## Samples (R97) -/

theorem exec_strobeEdge {s : State} (up : s.part.resetn = .high) (l : StrobeLine) :
    exec (.strobeEdge l) s = .next { s with part := s.part.activeSample l } := by
  show execStrobeEdge l s = _
  rw [execStrobeEdge, State.onPart, whenUp_high up]

theorem exec_strobeLevelChange {s : State} (up : s.part.resetn = .high) (l : StrobeLine) :
    exec (.strobeLevelChange l) s
      = .next { s with part := s.part.sample l (otherLevel (s.part.strobe l).polarity.active) } := by
  show execStrobeLevelChange l s = _
  rw [execStrobeLevelChange, State.onPart, whenUp_high up]

section
variable {p : Part} {l : StrobeLine}

/-- A sample at the level the line had is no edge. -/
theorem activeSample_of_same (same : (p.strobe l).last = (p.strobe l).polarity.active) : p.activeSample l = p :=
  if_pos same

/-- While the device is RESTARTING an edge reaches no window (R99). -/
theorem activeSample_of_restarting (edge : (p.strobe l).last ≠ (p.strobe l).polarity.active)
    (device : p.device = .restarting) : p.activeSample l = p.sample l (p.strobe l).polarity.active := by
  rw [Part.activeSample, if_neg edge, device]

theorem activeSample_of_running (edge : (p.strobe l).last ≠ (p.strobe l).polarity.active)
    (device : p.device = .running) :
    p.activeSample l = ((p.sample l (p.strobe l).polarity.active).edge l).eventEnd := by
  rw [Part.activeSample, if_neg edge, device]

end

/-- Settles O17: the command's own rule where it is carried out, its two refusals, and a sample at the active level that is
no edge because the line had that level. -/
theorem setStrobe : Obligations.SetStrobe := by
  refine ⟨fun s n a up => ⟨fun running polarity => ?_, fun running bad => ?_, fun restarting => ?_⟩,
    fun s l up still => ?_⟩
  · constructor <;> rintro rfl <;> rw [exec_setStrobe up, takeCommand_setPolarity running (by decide) polarity] <;> rfl
  · rw [exec_setStrobe up, takeCommand_setPolarity_of_badArg running bad]
  · rw [exec_setStrobe up, takeCommand_notBusy_of_restarting restarting]
  · have same : (s.part.strobe l).last = (s.part.strobe l).polarity.active := by
      rcases still with ⟨polarity, last⟩ | ⟨polarity, last⟩ <;> rw [polarity, last] <;> rfl
    rw [exec_strobeEdge up, activeSample_of_same same]

/-! ## An edge (R99 to R102, Table 6.1) -/

/-- An edge of the line acts on windows one after another: those that join the publish queue join its tail, and for those
found late LATE is posted. -/
def edgeActs (p : Part) (l : StrobeLine) (ws : List WinIdx) : Part :=
  { p with
    queue := p.queue ++ ws.filter (p.joinsAtEdge l)
    notify := (ws.filter (p.lateAtEdge l)).foldl
      (fun n w => n.post ⟨.late l, (p.win w).cfg.priority, (p.win w).cfg.target, some w⟩) p.notify }

section
variable {p : Part} {l : StrobeLine} {w : WinIdx}

theorem edgeActs_single_joins (joins : p.joinsAtEdge l w = true) (inTime : p.lateAtEdge l w = false) :
    edgeActs p l [w] = p.joinQueue w := by
  simp [edgeActs, joins, inTime, Part.joinQueue]

theorem edgeActs_single_late (stays : p.joinsAtEdge l w = false) (late : p.lateAtEdge l w = true) :
    edgeActs p l [w] = p.postWindow w (.late l) := by
  simp [edgeActs, stays, late, Part.postWindow, Part.post]

theorem edgeActs_single_none (stays : p.joinsAtEdge l w = false) (inTime : p.lateAtEdge l w = false) :
    edgeActs p l [w] = p := by
  simp [edgeActs, stays, inTime]

theorem boundTo_iff : p.boundTo l w = true
    ↔ (p.win w).cfg.trigger = lineTrigger l ∧ ((p.win w).state = .live ∨ (p.win w).state = .retiring) := by
  unfold Part.boundTo
  rw [Bool.and_eq_true, decide_eq_true_eq, decide_eq_true_eq]
  rfl

/-- A window that the line does not trigger, or that is neither LIVE nor RETIRING, is left alone (R99). -/
theorem edgeAt_of_unbound (unbound : p.boundTo l w = false) : p.edgeAt l w = edgeActs p l [w] := by
  rw [Part.edgeAt, if_neg (mt boundTo_iff.mpr (Bool.eq_false_iff.mp unbound))]
  exact (edgeActs_single_none (by rw [Part.joinsAtEdge, unbound]; rfl) (by rw [Part.lateAtEdge, unbound]; rfl)).symm

/-- A window with nothing to publish is left alone. -/
theorem edgeAt_of_noGen (bound : p.boundTo l w = true) (pub : (p.win w).pubGen = none) :
    p.edgeAt l w = edgeActs p l [w] := by
  have inState (st : GenState) : (p.win w).pubIn st = false := by rw [Window.pubIn, pub]
  rw [Part.edgeAt, if_pos (boundTo_iff.mp bound), pub]
  exact (edgeActs_single_none (by simp only [Part.joinsAtEdge, inState, Bool.and_false, Bool.false_and])
    (by simp only [Part.lateAtEdge, inState, Bool.and_false, Bool.false_and, Bool.or_self])).symm

section
variable {g : Gen}

theorem joinsAtEdge_of_gen (bound : p.boundTo l w = true) (pub : (p.win w).pubGen = some g) :
    p.joinsAtEdge l w = (decide (g.state = .closed) && decide (w ∉ p.queue) && decide (p.carryMap w = 0)) := by
  simp only [Part.joinsAtEdge, Window.pubIn, bound, pub, Bool.true_and]

theorem lateAtEdge_of_gen (bound : p.boundTo l w = true) (pub : (p.win w).pubGen = some g) :
    p.lateAtEdge l w = (decide (g.state = .checking) || decide (g.state = .draining) || decide (g.state = .stamping)
      || (decide (g.state = .closed) && decide (w ∉ p.queue) && decide (p.carryMap w ≠ 0))) := by
  simp only [Part.lateAtEdge, Window.pubIn, bound, pub, Bool.true_and]

/-- The edge at a bound window, by the state of its publishing generation (Table 6.1). -/
theorem edgeAt_of_gen (bound : p.boundTo l w = true) (pub : (p.win w).pubGen = some g) :
    p.edgeAt l w = edgeActs p l [w] := by
  have joins := joinsAtEdge_of_gen bound pub
  have late := lateAtEdge_of_gen bound pub
  rw [Part.edgeAt, if_pos (boundTo_iff.mp bound), pub]
  dsimp only
  cases st : g.state with
  | opened =>
    show p = _
    exact (edgeActs_single_none (by rw [joins, st]; rfl) (by rw [late, st]; rfl)).symm
  | closed =>
    show (if p.queue.contains w then p else if p.carryMap w = 0 then p.joinQueue w else p.postWindow w (.late l)) = _
    by_cases queued : w ∈ p.queue
    · rw [if_pos (List.contains_iff_mem.mpr queued)]
      exact (edgeActs_single_none (by rw [joins, st, decide_eq_false (not_not_intro queued)]; rfl)
        (by rw [late, st, decide_eq_false (not_not_intro queued)]; rfl)).symm
    rw [if_neg (mt List.contains_iff_mem.mp queued)]
    by_cases empty : p.carryMap w = 0
    · rw [if_pos empty]
      exact (edgeActs_single_joins (by rw [joins, st, decide_eq_true queued, decide_eq_true empty]; rfl)
        (by rw [late, st, decide_eq_false (not_not_intro empty), Bool.and_false]; rfl)).symm
    · rw [if_neg empty]
      exact (edgeActs_single_late (by rw [joins, decide_eq_false empty, Bool.and_false])
        (by rw [late, st, decide_eq_true queued, decide_eq_true empty]; rfl)).symm
  | checking | draining | stamping =>
    show p.postWindow w (.late l) = _
    exact (edgeActs_single_late (by rw [joins, st]; rfl) (by rw [late, st]; rfl)).symm

end

/-- At one window an edge does what `Part.joinsAtEdge` and `Part.lateAtEdge` say of it. -/
theorem edgeAt_eq (p : Part) (l : StrobeLine) (w : WinIdx) : p.edgeAt l w = edgeActs p l [w] := by
  cases bound : p.boundTo l w with
  | false => exact edgeAt_of_unbound bound
  | true =>
    cases pub : (p.win w).pubGen with
    | none => exact edgeAt_of_noGen bound pub
    | some g => exact edgeAt_of_gen bound pub

/-- A window joins the queue for no other window. -/
theorem mem_queue_edgeActs {v : WinIdx} (other : v ≠ w) : v ∈ (edgeActs p l [w]).queue ↔ v ∈ p.queue := by
  simp [edgeActs, other]

theorem joinsAtEdge_edgeActs {v : WinIdx} (other : v ≠ w) :
    (edgeActs p l [w]).joinsAtEdge l v = p.joinsAtEdge l v := by
  rw [Part.joinsAtEdge, decide_eq_decide.mpr (not_congr (mem_queue_edgeActs other))]
  rfl

theorem lateAtEdge_edgeActs {v : WinIdx} (other : v ≠ w) :
    (edgeActs p l [w]).lateAtEdge l v = p.lateAtEdge l v := by
  rw [Part.lateAtEdge, decide_eq_decide.mpr (not_congr (mem_queue_edgeActs other))]
  rfl

/-- What the edge does at one window is not seen by its tests of the windows after it. -/
theorem edgeActs_cons {ws : List WinIdx} (fresh : w ∉ ws) :
    edgeActs p l (w :: ws) = edgeActs (edgeActs p l [w]) l ws := by
  have joins : ws.filter ((edgeActs p l [w]).joinsAtEdge l) = ws.filter (p.joinsAtEdge l) :=
    List.filter_congr fun v mem => joinsAtEdge_edgeActs (ne_of_mem_of_not_mem mem fresh)
  have late : ws.filter ((edgeActs p l [w]).lateAtEdge l) = ws.filter (p.lateAtEdge l) :=
    List.filter_congr fun v mem => lateAtEdge_edgeActs (ne_of_mem_of_not_mem mem fresh)
  rw [edgeActs.eq_1 (edgeActs p l [w]), joins, late, ← List.singleton_append, edgeActs, List.filter_append,
    List.filter_append, List.foldl_append, ← List.append_assoc]
  rfl

/-- The busy engine takes none of the windows that join, so the edge acts on the windows and nothing else. -/
theorem foldl_edgeAt {ws : List WinIdx} (apart : ws.Nodup) (busy : p.engine ≠ none) :
    ws.foldl (fun q w => Part.takeAll Config.engineRounds (q.edgeAt l w)) p = edgeActs p l ws := by
  induction ws generalizing p with
  | nil => simp [edgeActs]
  | cons w ws ih =>
    obtain ⟨fresh, rest⟩ := List.nodup_cons.mp apart
    have still : (edgeActs p l [w]).engine ≠ none := busy
    rw [List.foldl_cons, edgeAt_eq, takeAll_of_atRest _ (.inl still), ih rest still, edgeActs_cons fresh]

theorem edge_of_busy (busy : p.engine ≠ none) : p.edge l = edgeActs p l allWindows :=
  foldl_edgeAt (by decide) busy

/-- The sample leaves everything that the edge's tests look at, and the engine. -/
theorem edgeActs_sample (v : Level) (ws : List WinIdx) :
    edgeActs (p.sample l v) l ws = { p.sample l v with
      queue := (edgeActs p l ws).queue
      notify := (edgeActs p l ws).notify } := by
  cases l <;> rfl

end

theorem sample_engine (p : Part) (l : StrobeLine) (v : Level) : (p.sample l v).engine = p.engine := by
  cases l <;> rfl

theorem sample_device (p : Part) (l : StrobeLine) (v : Level) : (p.sample l v).device = p.device := by
  cases l <;> rfl

theorem sample_offerDue (p : Part) (l : StrobeLine) (v : Level) : (p.sample l v).offerDue = p.offerDue := by
  cases l <;> rfl

/-- An edge while the engine is busy acts on the bound windows, and the event ends at the ports. -/
theorem afterPorts_activeSample {p : Part} {l : StrobeLine} (edge : (p.strobe l).last ≠ (p.strobe l).polarity.active)
    (running : p.device = .running) (busy : p.engine ≠ none) (offer : p.offerDue = false) :
    AfterPorts (edgeActs (p.sample l (p.strobe l).polarity.active) l allWindows) (p.activeSample l) := by
  have busy' : (p.sample l (p.strobe l).polarity.active).engine ≠ none := sample_engine p l _ ▸ busy
  rw [activeSample_of_running edge running, edge_of_busy busy']
  exact afterPorts_eventEnd ⟨.inl busy', (sample_offerDue p l _).trans offer⟩ ((sample_device p l _).trans running)

/-- Settles O49: a sample at the inactive level, and an edge in a RESTARTING and in a RUNNING device. -/
theorem strobeSamples : Obligations.StrobeSamples := by
  intro s l up st active inactive sampled
  have active_eq : active = st.polarity.active := rfl
  have inactive_eq : inactive = otherLevel st.polarity.active := by
    cases pol : st.polarity <;> simp only [inactive, pol] <;> rfl
  have sampled_eq (v : Level) : sampled v = s.part.sample l v := rfl
  refine ⟨?_, fun edge restarting => ?_, fun edge running busy offer => ⟨_, exec_strobeEdge up l, ?_⟩⟩
  · rw [exec_strobeLevelChange up, sampled_eq, inactive_eq]
  · rw [exec_strobeEdge up, activeSample_of_restarting edge restarting, sampled_eq, active_eq]
  · have ports := afterPorts_activeSample edge running busy offer
    rw [edgeActs_sample] at ports
    exact ports

end Sys2Proof.Machine.Strobing
end
